-- ==== Sys2Proof/Word.lean ====
section
/-! DEFINITION. The words of the machine: every value is an unsigned integer of a stated width (spec/00_scope.md R7). -/

namespace Sys2Proof

/-- An 8-bit value: a general register, a timer, a memory byte, the immediate `nn` (R21, R26, R50, R71). -/
abbrev Byte := BitVec 8

/-- A 16-bit value: an instruction word, `I`, `PC`, a return address (R23, R24, R25, R70). -/
abbrev Word := BitVec 16

/-- A 12-bit value: the address immediate `nnn` and the addresses of the memory bank (R50, R71). -/
abbrev Addr := BitVec 12

/-- A 4-bit value: one nibble of an instruction word (R71). -/
abbrev Nibble := BitVec 4

/-- The number of a general register: the 4-bit fields `x` and `y` (R71, R73). -/
abbrev Reg := BitVec 4

end Sys2Proof
end

