-- ==== Sys2Proof/Syntax.lean ====
section
/-! DEFINITION. The instructions: one constructor per row of spec/opcode_table.json, named after the table's names (spec/30_encoding.md R74, R81). -/

namespace Sys2Proof

/-- The 35 rows of the opcode table (R74): 34 instructions with an effect and the SYS row.
The operands are the fields of R71 that the row's format names (R72). -/
inductive Instr where
  /-- `00E0` (R151) -/
  | cls
  /-- `00EE` (R102) -/
  | ret
  /-- `0nnn`, every word of group 0 but `00E0` and `00EE` (R101) -/
  | sys (nnn : Addr)
  /-- `1nnn` (R103) -/
  | jp (nnn : Addr)
  /-- `2nnn` (R104) -/
  | call (nnn : Addr)
  /-- `3xnn` (R105) -/
  | seImm (x : Reg) (nn : Byte)
  /-- `4xnn` (R106) -/
  | sneImm (x : Reg) (nn : Byte)
  /-- `5xy0` (R107) -/
  | seReg (x y : Reg)
  /-- `6xnn` (R121) -/
  | ldImm (x : Reg) (nn : Byte)
  /-- `7xnn` (R122) -/
  | addImm (x : Reg) (nn : Byte)
  /-- `8xy0` (R123) -/
  | ldReg (x y : Reg)
  /-- `8xy1` (R124) -/
  | or (x y : Reg)
  /-- `8xy2` (R125) -/
  | and (x y : Reg)
  /-- `8xy3` (R126) -/
  | xor (x y : Reg)
  /-- `8xy4` (R127) -/
  | addReg (x y : Reg)
  /-- `8xy5` (R128) -/
  | sub (x y : Reg)
  /-- `8xy6` (R129): `y` is encoded and not read -/
  | shr (x y : Reg)
  /-- `8xy7` (R130) -/
  | subn (x y : Reg)
  /-- `8xyE` (R131): `y` is encoded and not read -/
  | shl (x y : Reg)
  /-- `9xy0` (R108) -/
  | sneReg (x y : Reg)
  /-- `Annn` (R132) -/
  | ldI (nnn : Addr)
  /-- `Bnnn` (R109) -/
  | jpV0 (nnn : Addr)
  /-- `Cxnn` (R133) -/
  | rnd (x : Reg) (nn : Byte)
  /-- `Dxyn` (R152) -/
  | drw (x y : Reg) (n : Nibble)
  /-- `Ex9E` (R171) -/
  | skp (x : Reg)
  /-- `ExA1` (R172) -/
  | sknp (x : Reg)
  /-- `Fx07` (R174) -/
  | ldVxDt (x : Reg)
  /-- `Fx0A` (R173) -/
  | ldVxK (x : Reg)
  /-- `Fx15` (R175) -/
  | ldDtVx (x : Reg)
  /-- `Fx18` (R176) -/
  | ldStVx (x : Reg)
  /-- `Fx1E` (R134) -/
  | addI (x : Reg)
  /-- `Fx29` (R153) -/
  | ldF (x : Reg)
  /-- `Fx33` (R190) -/
  | ldB (x : Reg)
  /-- `Fx55` (R191) -/
  | ldMemVx (x : Reg)
  /-- `Fx65` (R192) -/
  | ldVxMem (x : Reg)
deriving DecidableEq, Repr

end Sys2Proof
end

