-- ==== Sys2Proof/Decode.lean ====
section
/-! DEFINITION. The decoder, total on every 16-bit word and on any bytes, and the encoder (spec/30_encoding.md R71 to R76). -/

namespace Sys2Proof

/-- Why a word is no row of the opcode table, one name per group that has unlisted patterns (R74, R75, D11). -/
inductive Invalid where
  /-- `5xyn` with `n` other than 0 -/
  | group5 (n : Nibble)
  /-- `8xyn` with `n` one of 8 to D, or F -/
  | group8 (n : Nibble)
  /-- `9xyn` with `n` other than 0 -/
  | group9 (n : Nibble)
  /-- `Exnn` with `nn` neither 9E nor A1 -/
  | groupE (nn : Byte)
  /-- `Fxnn` with `nn` none of the nine listed -/
  | groupF (nn : Byte)
  /-- fewer than two bytes: no word to decode (an instruction is one 16-bit word, R70) -/
  | truncated
deriving DecidableEq, Repr

/-! The fields of R71, each extracted from every word. -/

/-- `op = w[15:12]` (R71) -/
def opOf (w : Word) : Nibble := w.extractLsb' 12 4
/-- `x = w[11:8]` (R71) -/
def xOf (w : Word) : Reg := w.extractLsb' 8 4
/-- `y = w[7:4]` (R71) -/
def yOf (w : Word) : Reg := w.extractLsb' 4 4
/-- `n = w[3:0]` (R71) -/
def nOf (w : Word) : Nibble := w.extractLsb' 0 4
/-- `nn = w[7:0]` (R71) -/
def nnOf (w : Word) : Byte := w.extractLsb' 0 8
/-- `nnn = w[11:0]` (R71) -/
def nnnOf (w : Word) : Addr := w.extractLsb' 0 12

/-- Group 0 (R75): CLS and RET take precedence over SYS. -/
def decode0 (w : Word) : Except Invalid Instr :=
  if w = 0x00E0#16 then .ok .cls
  else if w = 0x00EE#16 then .ok .ret
  else .ok (.sys (nnnOf w))

/-- Group 5 (R75). -/
def decode5 (w : Word) : Except Invalid Instr :=
  if nOf w = 0x0#4 then .ok (.seReg (xOf w) (yOf w)) else .error (.group5 (nOf w))

/-- Group 8 (R75). -/
def decode8 (w : Word) : Except Invalid Instr :=
  match nOf w with
  | 0x0#4 => .ok (.ldReg (xOf w) (yOf w))
  | 0x1#4 => .ok (.or (xOf w) (yOf w))
  | 0x2#4 => .ok (.and (xOf w) (yOf w))
  | 0x3#4 => .ok (.xor (xOf w) (yOf w))
  | 0x4#4 => .ok (.addReg (xOf w) (yOf w))
  | 0x5#4 => .ok (.sub (xOf w) (yOf w))
  | 0x6#4 => .ok (.shr (xOf w) (yOf w))
  | 0x7#4 => .ok (.subn (xOf w) (yOf w))
  | 0xE#4 => .ok (.shl (xOf w) (yOf w))
  | n => .error (.group8 n)

/-- Group 9 (R75). -/
def decode9 (w : Word) : Except Invalid Instr :=
  if nOf w = 0x0#4 then .ok (.sneReg (xOf w) (yOf w)) else .error (.group9 (nOf w))

/-- Group E (R75). -/
def decodeE (w : Word) : Except Invalid Instr :=
  match nnOf w with
  | 0x9E#8 => .ok (.skp (xOf w))
  | 0xA1#8 => .ok (.sknp (xOf w))
  | nn => .error (.groupE nn)

/-- Group F (R75). -/
def decodeF (w : Word) : Except Invalid Instr :=
  match nnOf w with
  | 0x07#8 => .ok (.ldVxDt (xOf w))
  | 0x0A#8 => .ok (.ldVxK (xOf w))
  | 0x15#8 => .ok (.ldDtVx (xOf w))
  | 0x18#8 => .ok (.ldStVx (xOf w))
  | 0x1E#8 => .ok (.addI (xOf w))
  | 0x29#8 => .ok (.ldF (xOf w))
  | 0x33#8 => .ok (.ldB (xOf w))
  | 0x55#8 => .ok (.ldMemVx (xOf w))
  | 0x65#8 => .ok (.ldVxMem (xOf w))
  | nn => .error (.groupF nn)

/-- `Decode(w)` of R75: every 16-bit word to one instruction or to a named refusal (the spec's `Invalid`). -/
def decode (w : Word) : Except Invalid Instr :=
  match opOf w with
  | 0x0#4 => decode0 w
  | 0x1#4 => .ok (.jp (nnnOf w))
  | 0x2#4 => .ok (.call (nnnOf w))
  | 0x3#4 => .ok (.seImm (xOf w) (nnOf w))
  | 0x4#4 => .ok (.sneImm (xOf w) (nnOf w))
  | 0x5#4 => decode5 w
  | 0x6#4 => .ok (.ldImm (xOf w) (nnOf w))
  | 0x7#4 => .ok (.addImm (xOf w) (nnOf w))
  | 0x8#4 => decode8 w
  | 0x9#4 => decode9 w
  | 0xA#4 => .ok (.ldI (nnnOf w))
  | 0xB#4 => .ok (.jpV0 (nnnOf w))
  | 0xC#4 => .ok (.rnd (xOf w) (nnOf w))
  | 0xD#4 => .ok (.drw (xOf w) (yOf w) (nOf w))
  | 0xE#4 => decodeE w
  | _ => decodeF w

/-- The 16-bit word at two bytes, the byte at the lower address first: big-endian (R52). -/
def wordOfBytes (hi lo : Byte) : Word := hi ++ lo

/-- The byte of a word at the lower address (R52: bits 15..8). -/
def hiByte (w : Word) : Byte := w.extractLsb' 8 8

/-- The byte of a word at the higher address (R52: bits 7..0). -/
def loByte (w : Word) : Byte := w.extractLsb' 0 8

/-- The decoder on any bytes: the first two are the instruction (R52, R70), the rest is handed back. -/
def decodeBytes : List Byte → Except Invalid (Instr × List Byte)
  | hi :: lo :: rest =>
    match decode (wordOfBytes hi lo) with
    | .ok i => .ok (i, rest)
    | .error e => .error e
  | [_] | [] => .error .truncated

/-- The instruction the decoder reads from the word whose bits are `w`, numbered as spec/opcode_table.json numbers them:
its two bytes are laid out as memory holds them (R52) and given to `decodeBytes`. -/
def decodeTableWord (nbits w : Nat) : Option Instr :=
  let word : Word := BitVec.ofNat 16 (w % 2 ^ nbits)
  match decodeBytes [hiByte word, loByte word] with
  | .ok (i, _) => some i
  | .error _ => none

/-! The formats of R72, as words. -/

/-- Format `nnn` (R72). -/
def formatNNN (op : Nibble) (nnn : Addr) : Word := op ++ nnn
/-- Format `xnn` (R72). -/
def formatXNN (op : Nibble) (x : Reg) (nn : Byte) : Word := op ++ x ++ nn
/-- Formats `xy` and `xyn` (R72): the last nibble is the sub-opcode or `n`. -/
def formatXYN (op : Nibble) (x y : Reg) (n : Nibble) : Word := op ++ x ++ y ++ n

/-- The word of an instruction, from the match and mask columns of spec/opcode_table.json and the formats of R72. -/
def encode : Instr → Word
  | .cls => 0x00E0#16
  | .ret => 0x00EE#16
  | .sys nnn => formatNNN 0x0#4 nnn
  | .jp nnn => formatNNN 0x1#4 nnn
  | .call nnn => formatNNN 0x2#4 nnn
  | .seImm x nn => formatXNN 0x3#4 x nn
  | .sneImm x nn => formatXNN 0x4#4 x nn
  | .seReg x y => formatXYN 0x5#4 x y 0x0#4
  | .ldImm x nn => formatXNN 0x6#4 x nn
  | .addImm x nn => formatXNN 0x7#4 x nn
  | .ldReg x y => formatXYN 0x8#4 x y 0x0#4
  | .or x y => formatXYN 0x8#4 x y 0x1#4
  | .and x y => formatXYN 0x8#4 x y 0x2#4
  | .xor x y => formatXYN 0x8#4 x y 0x3#4
  | .addReg x y => formatXYN 0x8#4 x y 0x4#4
  | .sub x y => formatXYN 0x8#4 x y 0x5#4
  | .shr x y => formatXYN 0x8#4 x y 0x6#4
  | .subn x y => formatXYN 0x8#4 x y 0x7#4
  | .shl x y => formatXYN 0x8#4 x y 0xE#4
  | .sneReg x y => formatXYN 0x9#4 x y 0x0#4
  | .ldI nnn => formatNNN 0xA#4 nnn
  | .jpV0 nnn => formatNNN 0xB#4 nnn
  | .rnd x nn => formatXNN 0xC#4 x nn
  | .drw x y n => formatXYN 0xD#4 x y n
  | .skp x => formatXNN 0xE#4 x 0x9E#8
  | .sknp x => formatXNN 0xE#4 x 0xA1#8
  | .ldVxDt x => formatXNN 0xF#4 x 0x07#8
  | .ldVxK x => formatXNN 0xF#4 x 0x0A#8
  | .ldDtVx x => formatXNN 0xF#4 x 0x15#8
  | .ldStVx x => formatXNN 0xF#4 x 0x18#8
  | .addI x => formatXNN 0xF#4 x 0x1E#8
  | .ldF x => formatXNN 0xF#4 x 0x29#8
  | .ldB x => formatXNN 0xF#4 x 0x33#8
  | .ldMemVx x => formatXNN 0xF#4 x 0x55#8
  | .ldVxMem x => formatXNN 0xF#4 x 0x65#8

end Sys2Proof
end

