-- ==== Sys2Proof/Config.lean ====
section
/-! DEFINITION. The parameters of one instance (spec/00_scope.md R6) and the machine's one free value. -/

namespace Sys2Proof

/-- What a decode error does: R211 (`skip`, the spec's default) or R212 (`halt`). -/
inductive DecodeErrorPolicy where
  | skip
  | halt
deriving DecidableEq, Repr

/-- What `load` does with a ROM of more than 3584 bytes (R252): `reject` is the spec's default. -/
inductive RomOversizePolicy where
  | reject
  | truncate
deriving DecidableEq, Repr

/-- The three parameters of R6 that the spec leaves open for an instance.
They are fixed for the life of the instance (R212); log entry 1 says why State carries them. -/
structure Config where
  decodeErrorPolicy : DecodeErrorPolicy
  romOversizePolicy : RomOversizePolicy
  /-- `FONT`: 80 bytes, 16 glyphs of 5 (R6, R57). -/
  font : Vector Byte 80
deriving DecidableEq, Repr

namespace Config

/-- `MEM_SIZE` (R6): addresses 0x000..0xFFF. -/
def memSize : Nat := 4096

/-- `FONT_BASE` (R6). -/
def fontBase : Nat := 0x050

/-- `ENTRY` (R6): where a ROM is placed and execution starts. -/
def entry : Nat := 0x200

/-- `ROM_MAX` (R6): 4096 - 0x200. -/
def romMax : Nat := 3584

/-- `STACK_DEPTH` (R6, R25). -/
def stackDepth : Nat := 16

/-- `DISPLAY_W` (R6). -/
def displayW : Nat := 64

/-- `DISPLAY_H` (R6). -/
def displayH : Nat := 32

/-- FREE VALUE (R9, R133, D13): the draw number `n` of `RandomByte()`, an unconstrained 8-bit value under no law.
It has no body, so nothing can be proved of it: a claim holds for every draw (log entry 2). -/
opaque randomByte : Nat → Byte

end Config

end Sys2Proof
end

