-- ==== Sys2Proof/Machine/ResetMemory.lean ====
section
/-! DEFINITION. What memory holds after reset where nothing was written since: FONT at 0x050..0x09F and zero elsewhere
(spec/20_memory.md R56, R57; spec/10_state.md R33). -/

namespace Sys2Proof.Machine

/-- The default value of parameter `FONT`: the table of R57, one glyph of five bytes a line, glyph 0 first. -/
def defaultFont : Vector Byte 80 :=
  #v[0xF0#8, 0x90#8, 0x90#8, 0x90#8, 0xF0#8,
    0x20#8, 0x60#8, 0x20#8, 0x20#8, 0x70#8,
    0xF0#8, 0x10#8, 0xF0#8, 0x80#8, 0xF0#8,
    0xF0#8, 0x10#8, 0xF0#8, 0x10#8, 0xF0#8,
    0x90#8, 0x90#8, 0xF0#8, 0x10#8, 0x10#8,
    0xF0#8, 0x80#8, 0xF0#8, 0x10#8, 0xF0#8,
    0xF0#8, 0x80#8, 0xF0#8, 0x90#8, 0xF0#8,
    0xF0#8, 0x10#8, 0x20#8, 0x40#8, 0x40#8,
    0xF0#8, 0x90#8, 0xF0#8, 0x90#8, 0xF0#8,
    0xF0#8, 0x90#8, 0xF0#8, 0x10#8, 0xF0#8,
    0xF0#8, 0x90#8, 0xF0#8, 0x90#8, 0x90#8,
    0xE0#8, 0x90#8, 0xE0#8, 0x90#8, 0xE0#8,
    0xF0#8, 0x80#8, 0x80#8, 0x80#8, 0xF0#8,
    0xE0#8, 0x90#8, 0x90#8, 0x90#8, 0xE0#8,
    0xF0#8, 0x80#8, 0xF0#8, 0x80#8, 0xF0#8,
    0xF0#8, 0x80#8, 0xF0#8, 0x80#8, 0x80#8]

/-- What an address that nothing has written since reset reads as (R33, R56): the font byte in 0x050..0x09F, else 0x00. -/
def resetByte (font : Vector Byte 80) (a : Nat) : Byte :=
  if h : Config.fontBase ≤ a ∧ a < Config.fontBase + 80 then
    font[a - Config.fontBase]'(by omega)
  else 0x00#8

end Sys2Proof.Machine
end

