-- ==== Sys2Proof/Machine/State.lean ====
section
/-! DEFINITION. The state vector of spec/10_state.md R20 as plain data, its reset value (R33, R250), and the reasons a host
operation can stop for. -/

namespace Sys2Proof.Machine

/-- The engine's externally visible mode (R30). -/
inductive Mode where
  | running
  | awaitingKey
  | halted
deriving DecidableEq, Repr

/-- The errors of R210; "the machine raises exactly these errors". -/
inductive ErrorCause where
  | decodeError
  | stackOverflow
  | stackUnderflow
  | romTooLarge
deriving DecidableEq, Repr

/-- The cause codes of R210 (D20). -/
def ErrorCause.code : ErrorCause → Nat
  | .decodeError => 1
  | .stackOverflow => 2
  | .stackUnderflow => 3
  | .romTooLarge => 4

/-- The halt record `(cause, pc0, w)` (R31). -/
structure HaltRecord where
  cause : ErrorCause
  pc0 : Word
  word : Word
deriving DecidableEq, Repr

/-- One decode-error diagnostic `(pc0, w)` (R32). -/
structure Diagnostic where
  pc0 : Word
  word : Word
deriving DecidableEq, Repr

/-- The memory bank (R50) as the bytes that differ from `resetByte`, by rising address: see `Memory.wf` (log entry 4). -/
abbrev Memory := List Host.Cell

/-- The display's bit plane (R29) as 32 packed rows of 64 bits: bit `px` of row `py` is pixel `(px, py)` (log entry 5). -/
abbrev Bitmap := Vector (BitVec 64) 32

/-- The display with no pixel lit. -/
def Bitmap.blank : Bitmap := Vector.replicate 32 0#64

/-- The complete state of one core (R20), with two fields of the model's own: `cfg` and `draws`. -/
structure State where
  /-- the parameters of R6, fixed for the life of the core; the model's own field (log entry 1) -/
  cfg : Config
  /-- `Mem` (R50) -/
  mem : Memory
  /-- `V[0]` to `V[15]` (R21) -/
  v : Vector Byte 16
  /-- `I` (R23) -/
  i : Word
  /-- `PC` (R24) -/
  pc : Word
  /-- the call stack, first pushed first; `sp` is its length (R25) -/
  stack : List Word
  /-- the delay timer (R26) -/
  delay : Byte
  /-- the sound timer (R26) -/
  sound : Byte
  /-- the input latch: `keys[k]` says that key `k` is held (R27) -/
  keys : Vector Bool 16
  /-- R30 -/
  mode : Mode
  /-- `wait_reg`: meaningful when `mode` is AwaitingKey (R28) -/
  waitReg : Reg
  /-- R29 -/
  display : Bitmap
  /-- R31 -/
  halt : Option HaltRecord
  /-- R32 -/
  diag : List Diagnostic
  /-- how many values `RandomByte()` has given; the model's own field (log entry 2) -/
  draws : Nat
deriving DecidableEq, Repr

/-- What stops the machine with a fault: nothing does.
The errors of R210 are next states (R11, R211, R213) and there are no other faults (R216), so the type has no constructor (log entry 3). -/
inductive Fault where
deriving DecidableEq, Repr

/-- Why an operation is refused. -/
inductive Refusal where
  /-- an instruction without a meaning: raised by an arm of `exec`, safe; no arm raises it in this model -/
  | notModelled (mnemonic : String)
  /-- `set_key` with an index outside 0..15 (R232, R11, D23): raised by `setKey` only, safe -/
  | keyOutOfRange (k : Nat)
deriving DecidableEq, Repr

/-- How an instruction or a host operation ends. -/
abbrev Result := Host.Outcome State Fault Refusal

/-- The parameters' default values (R6): skip, reject, the font of R57. -/
def standardConfig : Config where
  decodeErrorPolicy := .skip
  romOversizePolicy := .reject
  font := defaultFont

/-- The power-on state of a core with parameters `cfg` (R250, with the values of R33): memory holds `resetByte` everywhere. -/
def State.powerOn (cfg : Config) : State where
  cfg := cfg
  mem := []
  v := Vector.replicate 16 0x00#8
  i := 0x0000#16
  pc := 0x0200#16
  stack := []
  delay := 0x00#8
  sound := 0x00#8
  keys := Vector.replicate 16 false
  mode := .running
  waitReg := 0x0#4
  display := Bitmap.blank
  halt := none
  diag := []
  draws := 0

/-- The machine right after reset (R250), with the default parameters. -/
def State.reset : State := State.powerOn standardConfig

end Sys2Proof.Machine
end

