-- ==== Sys2Proof/Machine/Ops.lean ====
section
/-! DEFINITION. The shared operations: writing one component, memory, fetch, the call stack, raising an error, drawing a
random byte, plotting pixels. There is no return from an error beside the entry: only `load` leaves Halted (spec/60_exceptions.md R217). -/

namespace Sys2Proof.Machine

/-! ### One component at a time -/

/-- Read general register `r` (R9, R21): none is hard-wired. -/
def State.getV (s : State) (r : Reg) : Byte := s.v[r.toNat]'r.isLt

/-- Write general register `r` (R9, R21). -/
def State.setV (s : State) (r : Reg) (b : Byte) : State := { s with v := s.v.set r.toNat b r.isLt }

/-- Write `I` (R23). -/
def State.setI (s : State) (w : Word) : State := { s with i := w }

/-- Write `PC` (R24). -/
def State.setPc (s : State) (w : Word) : State := { s with pc := w }

/-- Replace the memory's cells. -/
def State.setMem (s : State) (m : Memory) : State := { s with mem := m }

/-- Replace the call stack. -/
def State.setStack (s : State) (st : List Word) : State := { s with stack := st }

/-- Write the delay timer (R26). -/
def State.setDelay (s : State) (b : Byte) : State := { s with delay := b }

/-- Write the sound timer (R26). -/
def State.setSound (s : State) (b : Byte) : State := { s with sound := b }

/-- Write one bit of the input latch (R27); only `set_key` does. -/
def State.setKeyBit (s : State) (k : Fin 16) (p : Bool) : State := { s with keys := s.keys.set k.val p k.isLt }

/-- Change the engine mode (R30). -/
def State.setMode (s : State) (m : Mode) : State := { s with mode := m }

/-- Write `wait_reg` (R28). -/
def State.setWaitReg (s : State) (r : Reg) : State := { s with waitReg := r }

/-- Replace the display (R29). -/
def State.setDisplay (s : State) (d : Bitmap) : State := { s with display := d }

/-- Write the halt record (R31). -/
def State.setHalt (s : State) (h : Option HaltRecord) : State := { s with halt := h }

/-- Replace the diagnostics (R32). -/
def State.setDiag (s : State) (d : List Diagnostic) : State := { s with diag := d }

/-- Count the draws of `RandomByte()` (log entry 2). -/
def State.setDraws (s : State) (n : Nat) : State := { s with draws := n }

/-- `sp`: the number of entries on the call stack (R25). -/
def State.sp (s : State) : Nat := s.stack.length

/-! ### Memory -/

/-- The listed byte at an address. -/
def Memory.lookup : Memory → Nat → Option Byte
  | [], _ => none
  | (k, b) :: rest, a => if k = a then some b else Memory.lookup rest a

/-- Read the byte at an address below 4096: the listed byte, or else the reset contents. -/
def Memory.read (font : Vector Byte 80) (m : Memory) (a : Nat) : Byte :=
  (Memory.lookup m a).getD (resetByte font a)

/-- Put a byte at its place in the rising list, over the entry of that address if there is one. -/
def Memory.insert (a : Nat) (b : Byte) : Memory → Memory
  | [] => [(a, b)]
  | (k, c) :: rest =>
    if a < k then (a, b) :: (k, c) :: rest
    else if a = k then (a, b) :: rest
    else (k, c) :: Memory.insert a b rest

/-- Take an address out of the list. -/
def Memory.erase (a : Nat) : Memory → Memory
  | [] => []
  | (k, c) :: rest => if k = a then Memory.erase a rest else (k, c) :: Memory.erase a rest

/-- Write a byte at an address below 4096; a byte equal to the reset contents leaves no entry. -/
def Memory.write (font : Vector Byte 80) (m : Memory) (a : Nat) (b : Byte) : Memory :=
  if b = resetByte font a then Memory.erase a m else Memory.insert a b m

/-- The addresses rise strictly, from `lo` on. -/
def Memory.risingFrom : Nat → Memory → Bool
  | _, [] => true
  | lo, (k, _) :: rest => decide (lo ≤ k) && Memory.risingFrom (k + 1) rest

/-- The canonical form: addresses strictly rising and below 4096, no entry equal to the reset contents. -/
def Memory.wf (font : Vector Byte 80) (m : Memory) : Bool :=
  Memory.risingFrom 0 m && m.all (fun c => decide (c.1 < Config.memSize) && c.2 != resetByte font c.1)

/-- Reduction of an address to 12 bits at the point of use (R51). -/
def maskAddr (a : Nat) : Nat := a % Config.memSize

/-- `MemRead(a, 1)` (R9, R51): no address faults (R216). -/
def State.memRead (s : State) (a : Nat) : Byte := Memory.read s.cfg.font s.mem (maskAddr a)

/-- `MemRead(a, 2)` (R9, R51): big-endian, each byte's address reduced separately. -/
def State.memReadWord (s : State) (a : Nat) : Word := wordOfBytes (s.memRead a) (s.memRead (a + 1))

/-- `MemWrite(a, 1, b)` (R9, R51). -/
def State.memWrite (s : State) (a : Nat) (b : Byte) : State :=
  s.setMem (Memory.write s.cfg.font s.mem (maskAddr a) b)

/-- Write bytes from address `a` up, in order. -/
def State.memWriteBytes (s : State) (a : Nat) : List Byte → State
  | [] => s
  | b :: bs => (s.memWrite a b).memWriteBytes (a + 1) bs

/-! ### Fetch and the program counter -/

/-- The word a step fetches (R79): `MemRead(PC, 2)`. -/
def State.fetchWord (s : State) : Word := s.memReadWord s.pc.toNat

/-- The fetch's advance of `PC` by 2, modulo 2^16 (R24, R79). -/
def State.advancePc (s : State) : State := s.setPc (s.pc + 2#16)

/-- `pc0` (R9) during execution, when `PC` holds `pc0 + 2` (R24; log entry 7). -/
def State.pc0 (s : State) : Word := s.pc - 2#16

/-- A skip (R100): `PC <- PC + 2` when the condition holds. -/
def State.skipIf (s : State) (c : Bool) : State := if c then s.setPc (s.pc + 2#16) else s

/-! ### The call stack (R25) -/

/-- `push(v)`, or none where it raises StackOverflow. -/
def State.push (s : State) (w : Word) : Option State :=
  if s.sp < Config.stackDepth then some (s.setStack (s.stack ++ [w])) else none

/-- `pop()`: the entry and the state without it, or none where it raises StackUnderflow. -/
def State.pop (s : State) : Option (Word × State) :=
  match s.stack.getLast? with
  | some w => some (w, s.setStack s.stack.dropLast)
  | none => none

/-! ### Raising an error (R210 to R213) -/

/-- Which errors are fatal (R210, R212). -/
def ErrorCause.fatal (policy : DecodeErrorPolicy) : ErrorCause → Bool
  | .decodeError => policy == .halt
  | .stackOverflow => true
  | .stackUnderflow => true
  | .romTooLarge => false

/-- Fatal error entry (R213): the state before the step, so `PC = pc0`, with mode Halted and the halt record. -/
def State.enterHalted (s : State) (cause : ErrorCause) (w : Word) : State :=
  ((s.setPc s.pc0).setMode .halted).setHalt (some ⟨cause, s.pc0, w⟩)

/-- A decode error under `skip` (R211): what the fetch left, with `(pc0, w)` appended to `diag`. -/
def State.addDiagnostic (s : State) (w : Word) : State := s.setDiag (s.diag ++ [⟨s.pc0, w⟩])

/-- `raise cause(pc0, w)` (R9, R213), in the state after the fetch and before any other effect of the instruction.
RomTooLarge is raised by `load` alone and leaves the state as it was (R252). -/
def State.raise (s : State) (cause : ErrorCause) (w : Word) : State :=
  if cause.fatal s.cfg.decodeErrorPolicy then s.enterHalted cause w
  else
    match cause with
    | .decodeError => s.addDiagnostic w
    | .stackOverflow | .stackUnderflow | .romTooLarge => s

/-! ### The random draw (R9, R133) -/

/-- The value the next `RandomByte()` gives: free (log entry 2). -/
def State.nextRandom (s : State) : Byte := Config.randomByte s.draws

/-- The state after one draw. -/
def State.afterDraw (s : State) : State := s.setDraws (s.draws + 1)

/-! ### The display (R29, R150) -/

/-- Pixel `(px, py)` of a bit plane (R29): column `px` of row `py`. -/
def pixelAt (d : Bitmap) (px py : Nat) : Bool := (d.getD py 0#64).getLsbD px

/-- `Pixel(px, py)` (R9, R29). -/
def State.pixel (s : State) (px py : Nat) : Bool := pixelAt s.display px py

/-- XOR a set sprite bit onto pixel `(px, py)`; the flag turns true when a lit pixel is cleared (R152). -/
def togglePixel (px py : Nat) (c : Bitmap × Bool) : Bitmap × Bool :=
  (c.1.setIfInBounds py (c.1.getD py 0#64 ^^^ BitVec.twoPow 64 px), c.2 || pixelAt c.1 px py)

/-- Columns `0 .. k-1` of one sprite row (R150, R152): bit `7 - c` of the byte is column `c`; each column wraps on its own. -/
def drawColumns (b : Byte) (x0 py : Nat) : Nat → Bitmap × Bool → Bitmap × Bool
  | 0, acc => acc
  | c + 1, acc =>
    let acc' := drawColumns b x0 py c acc
    if b.getLsbD (7 - c) then togglePixel ((x0 + c) % Config.displayW) py acc' else acc'

/-- Rows `0 .. r-1` of the sprite whose row `r` is `byteAt r` (R152): each row wraps on its own. -/
def drawRows (byteAt : Nat → Byte) (x0 y0 : Nat) : Nat → Bitmap × Bool → Bitmap × Bool
  | 0, acc => acc
  | r + 1, acc =>
    drawColumns (byteAt r) x0 ((y0 + r) % Config.displayH) 8 (drawRows byteAt x0 y0 r acc)

/-! ### Block transfers of registers (R191, R192) -/

/-- Store `V[0] .. V[n-1]` from address `a` up. -/
def State.storeRegs (s : State) (a : Nat) : Nat → State
  | 0 => s
  | k + 1 => (s.storeRegs a k).memWrite (a + k) (s.getV (BitVec.ofNat 4 k))

/-- Load `V[0] .. V[n-1]` from address `a` up. -/
def State.loadRegs (s : State) (a : Nat) : Nat → State
  | 0 => s
  | k + 1 => (s.loadRegs a k).setV (BitVec.ofNat 4 k) (s.memRead (a + k))

end Sys2Proof.Machine
end

