-- ==== Sys2Proof/Machine/Operands.lean ====
section
/-! DEFINITION. The operand forms (spec/30_encoding.md R73): registers and immediates used as they are, a 12-bit absolute
address, `nnn + V[0]`, an address at `I` plus a small offset, a key number, a glyph number, decimal digits. -/

namespace Sys2Proof.Machine

/-- `zext_16(nnn)` (R73): an absolute address, never scaled or relative. -/
def absAddr (nnn : Addr) : Word := nnn.setWidth 16

/-- `zext_16(V)` (R7). -/
def wide (b : Byte) : Word := b.setWidth 16

/-- The target of `Bnnn` (R109): `nnn + V[0]`, not reduced. -/
def State.v0Target (s : State) (nnn : Addr) : Word := absAddr nnn + wide (s.getV 0#4)

/-- The address of byte `k` at `I` (R54): the reduction modulo 4096 is in the access itself (R51). -/
def State.atI (s : State) (k : Nat) : Nat := s.i.toNat + k

/-- `(I + zext_16(V[x])) mod 4096` (R134). -/
def State.indexSum (s : State) (x : Reg) : Word :=
  BitVec.ofNat 16 (maskAddr (s.i.toNat + (s.getV x).toNat))

/-- The address of glyph `g` (R153): `0x050 + g * 5`, with no masking of `g`. -/
def glyphAddr (g : Byte) : Word := BitVec.ofNat 16 (Config.fontBase + g.toNat * 5)

/-- `KeyHeld(v)` (R170): the latch bit for 0..15, not held for 16..255. -/
def State.keyHeld (s : State) (k : Byte) : Bool :=
  if h : k.toNat < 16 then s.keys[k.toNat]'h else false

/-- The hundreds digit (R190). -/
def hundreds (b : Byte) : Byte := BitVec.ofNat 8 (b.toNat / 100)

/-- The tens digit (R190). -/
def tens (b : Byte) : Byte := BitVec.ofNat 8 (b.toNat / 10 % 10)

/-- The ones digit (R190). -/
def ones (b : Byte) : Byte := BitVec.ofNat 8 (b.toNat % 10)

end Sys2Proof.Machine
end

