-- ==== Sys2Proof/Machine/Control.lean ====
section
/-! DEFINITION. Control transfer (spec/40_control_flow.md): each meaning runs after the fetch, in a state whose `PC` is `pc0 + 2` (R79). -/

namespace Sys2Proof.Machine

/-- A word that no row of the table matches (R76): a decode error, and no part of another instruction. -/
def execInvalid (w : Word) (s : State) : Result := .next (s.raise .decodeError w)

/-- `0nnn` SYS (R101): always a decode error. -/
def execSys (nnn : Addr) (s : State) : Result := .next (s.raise .decodeError (encode (.sys nnn)))

/-- `00EE` RET (R102). -/
def execRet (s : State) : Result :=
  match s.pop with
  | some (target, s') => .next (s'.setPc target)
  | none => .next (s.raise .stackUnderflow (encode .ret))

/-- `1nnn` JP (R103). -/
def execJp (nnn : Addr) (s : State) : Result := .next (s.setPc (absAddr nnn))

/-- `2nnn` CALL (R104): pushes `PC`, which is `pc0 + 2`. -/
def execCall (nnn : Addr) (s : State) : Result :=
  match s.push s.pc with
  | some s' => .next (s'.setPc (absAddr nnn))
  | none => .next (s.raise .stackOverflow (encode (.call nnn)))

/-- `3xnn` SE (R105). -/
def execSeImm (x : Reg) (nn : Byte) (s : State) : Result := .next (s.skipIf (s.getV x == nn))

/-- `4xnn` SNE (R106). -/
def execSneImm (x : Reg) (nn : Byte) (s : State) : Result := .next (s.skipIf (s.getV x != nn))

/-- `5xy0` SE (R107). -/
def execSeReg (x y : Reg) (s : State) : Result := .next (s.skipIf (s.getV x == s.getV y))

/-- `9xy0` SNE (R108). -/
def execSneReg (x y : Reg) (s : State) : Result := .next (s.skipIf (s.getV x != s.getV y))

/-- `Bnnn` JP V0 (R109). -/
def execJpV0 (nnn : Addr) (s : State) : Result := .next (s.setPc (s.v0Target nnn))

end Sys2Proof.Machine
end

