-- ==== Sys2Proof/Machine/Flags.lean ====
section
/-! DEFINITION. The values of VF, the machine's only flag (spec/10_state.md R22, spec/41_load_arith.md R120). -/

namespace Sys2Proof.Machine

/-- The number of VF (R22). -/
def vf : Reg := 0xF#4

/-- A flag as VF holds it: 1 or 0 (R127). -/
def flagByte (f : Bool) : Byte := if f then 0x01#8 else 0x00#8

/-- Write the flag; every meaning that has one does this last (R10). -/
def State.setFlag (s : State) (f : Bool) : State := s.setV vf (flagByte f)

/-- `8xy4` (R127): the sum exceeds 255. -/
def carryOut (a b : Byte) : Bool := decide (255 < a.toNat + b.toNat)

/-- `8xy5` and `8xy7` (R128, R130): the minuend is strictly greater than the subtrahend. -/
def strictlyGreater (minuend subtrahend : Byte) : Bool := decide (subtrahend.toNat < minuend.toNat)

/-- `8xy6` (R129): bit 0 before the shift. -/
def lowBit (a : Byte) : Bool := a.getLsbD 0

/-- `8xyE` (R131): bit 7 before the shift. -/
def highBit (a : Byte) : Bool := a.getLsbD 7

end Sys2Proof.Machine
end

