-- ==== Sys2Proof/Machine/Display.lean ====
section
/-! DEFINITION. The display instructions (spec/42_display.md). -/

namespace Sys2Proof.Machine

/-- `00E0` CLS (R151). -/
def execCls (s : State) : Result := .next (s.setDisplay Bitmap.blank)

/-- The display and the collision flag after drawing (R152): start column `V[x] mod 64`, start row `V[y] mod 32`, row `r` from `I + r`. -/
def State.drawn (s : State) (x y : Reg) (n : Nibble) : Bitmap × Bool :=
  drawRows (fun r => s.memRead (s.atI r)) ((s.getV x).toNat % Config.displayW) ((s.getV y).toNat % Config.displayH)
    n.toNat (s.display, false)

/-- `Dxyn` DRW (R152): VF, the collision flag, is written last. -/
def execDrw (x y : Reg) (n : Nibble) (s : State) : Result :=
  .next ((s.setDisplay (s.drawn x y n).1).setFlag (s.drawn x y n).2)

/-- `Fx29` LD F (R153). -/
def execLdF (x : Reg) (s : State) : Result := .next (s.setI (glyphAddr (s.getV x)))

end Sys2Proof.Machine
end

