-- ==== Sys2Proof/Machine/KeysTimers.lean ====
section
/-! DEFINITION. The key and timer instructions (spec/43_input_timers.md). -/

namespace Sys2Proof.Machine

/-- `Ex9E` SKP (R171). -/
def execSkp (x : Reg) (s : State) : Result := .next (s.skipIf (s.keyHeld (s.getV x)))

/-- `ExA1` SKNP (R172). -/
def execSknp (x : Reg) (s : State) : Result := .next (s.skipIf (!s.keyHeld (s.getV x)))

/-- `Fx07` LD Vx, DT (R174). -/
def execLdVxDt (x : Reg) (s : State) : Result := .next (s.setV x s.delay)

/-- `Fx0A` LD Vx, K (R173): fills the key-wait slot; `setKey` completes it (R232). -/
def execLdVxK (x : Reg) (s : State) : Result := .next ((s.setWaitReg x).setMode .awaitingKey)

/-- `Fx15` LD DT, Vx (R175). -/
def execLdDtVx (x : Reg) (s : State) : Result := .next (s.setDelay (s.getV x))

/-- `Fx18` LD ST, Vx (R176). -/
def execLdStVx (x : Reg) (s : State) : Result := .next (s.setSound (s.getV x))

end Sys2Proof.Machine
end

