-- ==== Sys2Proof/Machine/LoadArith.lean ====
section
/-! DEFINITION. Register loads and arithmetic (spec/41_load_arith.md): operands are read first and VF is written last (R10). -/

namespace Sys2Proof.Machine

/-- `6xnn` LD (R121). -/
def execLdImm (x : Reg) (nn : Byte) (s : State) : Result := .next (s.setV x nn)

/-- `7xnn` ADD (R122): no flag. -/
def execAddImm (x : Reg) (nn : Byte) (s : State) : Result := .next (s.setV x (s.getV x + nn))

/-- `8xy0` LD (R123). -/
def execLdReg (x y : Reg) (s : State) : Result := .next (s.setV x (s.getV y))

/-- `8xy1` OR (R124): VF is not reset. -/
def execOr (x y : Reg) (s : State) : Result := .next (s.setV x (s.getV x ||| s.getV y))

/-- `8xy2` AND (R125): VF is not reset. -/
def execAnd (x y : Reg) (s : State) : Result := .next (s.setV x (s.getV x &&& s.getV y))

/-- `8xy3` XOR (R126): VF is not reset. -/
def execXor (x y : Reg) (s : State) : Result := .next (s.setV x (s.getV x ^^^ s.getV y))

/-- `8xy4` ADD (R127): VF is the carry. -/
def execAddReg (x y : Reg) (s : State) : Result :=
  .next ((s.setV x (s.getV x + s.getV y)).setFlag (carryOut (s.getV x) (s.getV y)))

/-- `8xy5` SUB (R128): VF is 1 when `V[x] > V[y]`. -/
def execSub (x y : Reg) (s : State) : Result :=
  .next ((s.setV x (s.getV x - s.getV y)).setFlag (strictlyGreater (s.getV x) (s.getV y)))

/-- `8xy6` SHR (R129): the source is `V[x]`; `y` is not read. -/
def execShr (x _y : Reg) (s : State) : Result :=
  .next ((s.setV x (s.getV x >>> 1)).setFlag (lowBit (s.getV x)))

/-- `8xy7` SUBN (R130): VF is 1 when `V[y] > V[x]`. -/
def execSubn (x y : Reg) (s : State) : Result :=
  .next ((s.setV x (s.getV y - s.getV x)).setFlag (strictlyGreater (s.getV y) (s.getV x)))

/-- `8xyE` SHL (R131): the source is `V[x]`; `y` is not read. -/
def execShl (x _y : Reg) (s : State) : Result :=
  .next ((s.setV x (s.getV x <<< 1)).setFlag (highBit (s.getV x)))

/-- `Annn` LD I (R132). -/
def execLdI (nnn : Addr) (s : State) : Result := .next (s.setI (absAddr nnn))

/-- `Cxnn` RND (R133): one draw, masked. -/
def execRnd (x : Reg) (nn : Byte) (s : State) : Result := .next (s.afterDraw.setV x (s.nextRandom &&& nn))

/-- `Fx1E` ADD I (R134): wraps modulo 4096, no flag. -/
def execAddI (x : Reg) (s : State) : Result := .next (s.setI (s.indexSum x))

end Sys2Proof.Machine
end

