-- ==== Sys2Proof/Machine/MemTransfer.lean ====
section
/-! DEFINITION. Memory transfers (spec/44_memory_transfer.md): `I` is not changed (D9). -/

namespace Sys2Proof.Machine

/-- `Fx33` LD B (R190). -/
def execLdB (x : Reg) (s : State) : Result :=
  .next (s.memWriteBytes (s.atI 0) [hundreds (s.getV x), tens (s.getV x), ones (s.getV x)])

/-- `Fx55` LD [I], Vx (R191): `x + 1` bytes. -/
def execLdMemVx (x : Reg) (s : State) : Result := .next (s.storeRegs (s.atI 0) (x.toNat + 1))

/-- `Fx65` LD Vx, [I] (R192): `x + 1` bytes. -/
def execLdVxMem (x : Reg) (s : State) : Result := .next (s.loadRegs (s.atI 0) (x.toNat + 1))

end Sys2Proof.Machine
end

