-- ==== Sys2Proof/Machine/Step.lean ====
section
/-! DEFINITION. One step of the engine: the host operation `step()` (spec/30_encoding.md R79, R80; spec/60_exceptions.md R213). -/

namespace Sys2Proof.Machine

/-- In Running (R79): fetch, advance `PC`, decode, execute; a word that decodes to nothing is a decode error (R76).
In AwaitingKey and Halted a step changes nothing (R80). -/
def step (s : State) : Host.Outcome State Fault Refusal :=
  match s.mode with
  | .running =>
    match decode s.fetchWord with
    | .ok i => exec i s.advancePc
    | .error _ => execInvalid s.fetchWord s.advancePc
  | .awaitingKey => .next s
  | .halted => .next s

/-- `s` with the instruction whose bits are `w` at `PC`, ready for the very next step to run it: the two bytes stand big-endian at
`PC` and `PC + 1` (R52), and the engine is Running with no halt record, since in the other modes a step fetches nothing (R80).
Log entry 8 says how a program comes to run from reset. -/
def State.withFetchWord (s : State) (nbits w : Nat) : State :=
  let word : Word := BitVec.ofNat 16 (w % 2 ^ nbits)
  ((s.memWriteBytes s.pc.toNat [hiByte word, loByte word]).setMode .running).setHalt none

end Sys2Proof.Machine
end

