-- ==== Sys2Proof/Machine/HostOps.lean ====
section
/-! DEFINITION. The host interface (spec/60_exceptions.md R230 to R234; spec/70_reset_and_hazards.md R251, R252): the operations
that fall between steps. -/

namespace Sys2Proof.Machine

/-! ### load -/

/-- The reset of every component and the placing of the ROM (R251); the parameters stay, and so does the count of draws (log entry 2). -/
def State.loaded (s : State) (rom : List Byte) : State :=
  ((State.powerOn s.cfg).memWriteBytes Config.entry rom).setDraws s.draws

/-- What `load` returns (R231): `ok`, or RomTooLarge; DESIGN CHOICE (log entry 13): the reply carries the ROM length that R210 records. -/
inductive LoadReply where
  | ok
  | romTooLarge (length : Nat)
deriving DecidableEq, Repr

/-- `load(rom)` (R251, R252): the state after it and what it returns. -/
def load (rom : List Byte) (s : State) : State × LoadReply :=
  if rom.length ≤ Config.romMax then (s.loaded rom, .ok)
  else
    match s.cfg.romOversizePolicy with
    | .reject => (s, .romTooLarge rom.length)
    | .truncate => (s.loaded (rom.take Config.romMax), .ok)

/-! ### run_batch -/

/-- One down-count, floored at zero (R222). -/
def countDown (b : Byte) : Byte := if b = 0x00#8 then 0x00#8 else b - 1#8

/-- The decrement at the end of a batch (R222). -/
def State.tickTimers (s : State) : State := (s.setDelay (countDown s.delay)).setSound (countDown s.sound)

/-- Up to `n` steps, leaving the loop when the mode is not Running (R224). -/
def runSteps : Nat → State → Result
  | 0, s => .next s
  | n + 1, s =>
    match s.mode with
    | .running =>
      match step s with
      | .next s' => runSteps n s'
      | .fault f => .fault f
      | .refused r => .refused r
    | .awaitingKey => .next s
    | .halted => .next s

/-- The timers at a batch's end: untouched when the engine is Halted (R222, R224). -/
def State.endBatch (s : State) : State :=
  match s.mode with
  | .halted => s
  | .running => s.tickTimers
  | .awaitingKey => s.tickTimers

/-- `run_batch(n)` (R224). -/
def runBatch (n : Nat) (s : State) : Result :=
  match runSteps n s with
  | .next s' => .next s'.endBatch
  | .fault f => .fault f
  | .refused r => .refused r

/-! ### set_key -/

/-- The completion of a pending key-wait by a press of key `k` (R28, R232); `wait_reg` keeps its value (log entry 6). -/
def State.completeWait (s : State) (k : Fin 16) : State :=
  (s.setV s.waitReg (BitVec.ofNat 8 k.val)).setMode .running

/-- `set_key(k, p)` (R232); an index above 15 is refused. -/
def setKey (k : Nat) (p : Bool) (s : State) : Result :=
  if h : k < 16 then
    let s' := s.setKeyBit ⟨k, h⟩ p
    match s.mode, p with
    | .awaitingKey, true => .next (s'.completeWait ⟨k, h⟩)
    | .awaitingKey, false => .next s'
    | .running, _ => .next s'
    | .halted, _ => .next s'
  else .refused (.keyOutOfRange k)

/-! ### The reads, and clear_diag -/

/-- What `read_frame` returns (R231, R233): 2048 bits row-major, and the two timers. -/
structure Frame where
  pixels : List Bool
  sound : Byte
  delay : Byte
deriving DecidableEq, Repr

/-- `read_frame()` (R233). -/
def readFrame (s : State) : Frame where
  pixels := (List.range 2048).map (fun k => s.pixel (k % Config.displayW) (k / Config.displayW))
  sound := s.sound
  delay := s.delay

/-- `read_status()` (R231). -/
def readStatus (s : State) : Mode × Option HaltRecord := (s.mode, s.halt)

/-- `read_diag()` (R234). -/
def readDiag (s : State) : List Diagnostic := s.diag

/-- `clear_diag()` (R231, R234). -/
def clearDiag (s : State) : State := s.setDiag []

/-! ### One host operation -/

/-- The operations of R231, the whole interface of the block. -/
inductive HostOp where
  | load (rom : List Byte)
  | step
  | runBatch (n : Nat)
  | setKey (k : Nat) (p : Bool)
  | readFrame
  | readStatus
  | readDiag
  | clearDiag
deriving DecidableEq, Repr

/-- What an operation returns (R231). -/
inductive Reply where
  | nothing
  | loadResult (r : LoadReply)
  | frame (f : Frame)
  | status (m : Mode) (h : Option HaltRecord)
  | diagnostics (d : List Diagnostic)
deriving DecidableEq, Repr

/-- A state and a reply. -/
structure Served where
  state : State
  reply : Reply
deriving DecidableEq, Repr

/-- An operation that returns nothing. -/
def servedNothing : Result → Host.Outcome Served Fault Refusal
  | .next s => .next ⟨s, .nothing⟩
  | .fault f => .fault f
  | .refused r => .refused r

/-- Perform one host operation to completion (R230). DESIGN CHOICE (log entry 17): `clear_diag` returns nothing; R231's row for
`read_diag` and `clear_diag` together gives the return `diag` without saying whose it is. -/
def perform (op : HostOp) (s : State) : Host.Outcome Served Fault Refusal :=
  match op with
  | .load rom => .next ⟨(load rom s).1, .loadResult (load rom s).2⟩
  | .step => servedNothing (step s)
  | .runBatch n => servedNothing (runBatch n s)
  | .setKey k p => servedNothing (setKey k p s)
  | .readFrame => .next ⟨s, .frame (readFrame s)⟩
  | .readStatus => .next ⟨s, .status (readStatus s).1 (readStatus s).2⟩
  | .readDiag => .next ⟨s, .diagnostics (readDiag s)⟩
  | .clearDiag => .next ⟨clearDiag s, .nothing⟩

/-- A sequence of host operations, in the order the host calls them (R230); a refused call leaves the state as it was (R11). -/
def performAll : List HostOp → State → Host.Outcome State Fault Refusal
  | [], s => .next s
  | op :: ops, s =>
    match perform op s with
    | .next r => performAll ops r.state
    | .refused _ => performAll ops s
    | .fault f => .fault f

end Sys2Proof.Machine
end

