-- ==== Sys2Proof/Safety.lean ====
section
/-! DEFINITION. The words the claims are stated in: what an operation leaves as it was, the invariant of the machine, what an
instruction may write, the rows of the opcode table, which pixels a sprite covers. -/

namespace Sys2Proof.Machine

/-! ### What is left as it was -/

/-- The components of the state vector (R20), memory by the byte and registers one by one. -/
inductive Component where
  | cfg
  | mem (a : Addr)
  | v (r : Reg)
  | i
  | pc
  | stack
  | delay
  | sound
  | keys
  | mode
  | waitReg
  | display
  | halt
  | diag
  | draws
deriving DecidableEq, Repr

/-- The component reads the same in both states; a byte of memory through `MemRead` (R9). -/
def Component.Same (s t : State) : Component → Prop
  | .cfg => t.cfg = s.cfg
  | .mem a => t.memRead a.toNat = s.memRead a.toNat
  | .v r => t.getV r = s.getV r
  | .i => t.i = s.i
  | .pc => t.pc = s.pc
  | .stack => t.stack = s.stack
  | .delay => t.delay = s.delay
  | .sound => t.sound = s.sound
  | .keys => t.keys = s.keys
  | .mode => t.mode = s.mode
  | .waitReg => t.waitReg = s.waitReg
  | .display => t.display = s.display
  | .halt => t.halt = s.halt
  | .diag => t.diag = s.diag
  | .draws => t.draws = s.draws

/-- Every component that is not listed reads the same in both states: every register, every byte of memory, everything else. -/
def SameExcept (changed : List Component) (s t : State) : Prop :=
  ∀ c : Component, c ∉ changed → c.Same s t

/-- The component of the byte that an access at `a` touches (R51). -/
def Component.byteAt (a : Nat) : Component := .mem (BitVec.ofNat 12 a)

/-! ### What an instruction may write -/

/-- What each instruction may write besides the fetch's advance of `PC`, on some operands: the "written only by" sentences of R22 to
R32 and R54, and the error entries of R102, R104 and R101. -/
def mayWrite (s : State) : Instr → List Component
  | .cls => [.display]
  | .ret => [.pc, .stack, .mode, .halt]
  | .sys _ => [.pc, .mode, .halt, .diag]
  | .jp _ | .jpV0 _ => [.pc]
  | .call _ => [.pc, .stack, .mode, .halt]
  | .seImm _ _ | .sneImm _ _ | .seReg _ _ | .sneReg _ _ | .skp _ | .sknp _ => [.pc]
  | .ldImm x _ | .addImm x _ | .ldReg x _ | .or x _ | .and x _ | .xor x _ | .ldVxDt x => [.v x]
  | .addReg x _ | .sub x _ | .shr x _ | .subn x _ | .shl x _ => [.v x, .v vf]
  | .ldI _ | .addI _ | .ldF _ => [.i]
  | .rnd x _ => [.v x, .draws]
  | .drw _ _ _ => [.display, .v vf]
  | .ldVxK _ => [.mode, .waitReg]
  | .ldDtVx _ => [.delay]
  | .ldStVx _ => [.sound]
  | .ldB _ => (List.range 3).map (fun k => .byteAt (s.atI k))
  | .ldMemVx x => (List.range (x.toNat + 1)).map (fun k => .byteAt (s.atI k))
  | .ldVxMem x => (List.range (x.toNat + 1)).map (fun k => .v (BitVec.ofNat 4 k))

/-! ### The opcode table -/

/-- The match and mask columns of an instruction's row of spec/opcode_table.json (R74). -/
def opcodeRow : Instr → Word × Word
  | .cls => (0x00E0#16, 0xFFFF#16)
  | .ret => (0x00EE#16, 0xFFFF#16)
  | .sys _ => (0x0000#16, 0xF000#16)
  | .jp _ => (0x1000#16, 0xF000#16)
  | .call _ => (0x2000#16, 0xF000#16)
  | .seImm _ _ => (0x3000#16, 0xF000#16)
  | .sneImm _ _ => (0x4000#16, 0xF000#16)
  | .seReg _ _ => (0x5000#16, 0xF00F#16)
  | .ldImm _ _ => (0x6000#16, 0xF000#16)
  | .addImm _ _ => (0x7000#16, 0xF000#16)
  | .ldReg _ _ => (0x8000#16, 0xF00F#16)
  | .or _ _ => (0x8001#16, 0xF00F#16)
  | .and _ _ => (0x8002#16, 0xF00F#16)
  | .xor _ _ => (0x8003#16, 0xF00F#16)
  | .addReg _ _ => (0x8004#16, 0xF00F#16)
  | .sub _ _ => (0x8005#16, 0xF00F#16)
  | .shr _ _ => (0x8006#16, 0xF00F#16)
  | .subn _ _ => (0x8007#16, 0xF00F#16)
  | .shl _ _ => (0x800E#16, 0xF00F#16)
  | .sneReg _ _ => (0x9000#16, 0xF00F#16)
  | .ldI _ => (0xA000#16, 0xF000#16)
  | .jpV0 _ => (0xB000#16, 0xF000#16)
  | .rnd _ _ => (0xC000#16, 0xF000#16)
  | .drw _ _ _ => (0xD000#16, 0xF000#16)
  | .skp _ => (0xE09E#16, 0xF0FF#16)
  | .sknp _ => (0xE0A1#16, 0xF0FF#16)
  | .ldVxDt _ => (0xF007#16, 0xF0FF#16)
  | .ldVxK _ => (0xF00A#16, 0xF0FF#16)
  | .ldDtVx _ => (0xF015#16, 0xF0FF#16)
  | .ldStVx _ => (0xF018#16, 0xF0FF#16)
  | .addI _ => (0xF01E#16, 0xF0FF#16)
  | .ldF _ => (0xF029#16, 0xF0FF#16)
  | .ldB _ => (0xF033#16, 0xF0FF#16)
  | .ldMemVx _ => (0xF055#16, 0xF0FF#16)
  | .ldVxMem _ => (0xF065#16, 0xF0FF#16)

/-! ### The invariant -/

/-- What holds of a core in every state a host can bring it to. -/
structure CoreInv (s : State) : Prop where
  /-- the memory list is canonical (log entry 4) -/
  memory : Memory.wf s.cfg.font s.mem = true
  /-- `I` stays below 4096 (R23) -/
  index : s.i.toNat < 4096
  /-- `0 <= sp <= 16` (R25) -/
  depth : s.sp ≤ 16
  /-- `halt` is none except in mode Halted (R31) -/
  record : s.halt.isSome = true ↔ s.mode = .halted

/-! ### Errors -/

/-- What a decode error for the word `w` at `pc0` leaves, by policy (R211, R212, R213): `s` is the state before the step. -/
def DecodeErrorLeaves (w : Word) (s t : State) : Prop :=
  (s.cfg.decodeErrorPolicy = .skip →
    t.pc = s.pc + 2#16 ∧ t.diag = s.diag ++ [⟨s.pc, w⟩] ∧ SameExcept [.pc, .diag] s t) ∧
  (s.cfg.decodeErrorPolicy = .halt →
    t.mode = .halted ∧ t.halt = some ⟨.decodeError, s.pc, w⟩ ∧ SameExcept [.mode, .halt] s t)

/-- A fatal error raised during an instruction, after the fetch made `PC` `pc0 + 2` (R213): `s` is the state after the fetch. -/
def FatalDuring (cause : ErrorCause) (w : Word) (s t : State) : Prop :=
  t.pc = s.pc - 2#16 ∧ t.mode = .halted ∧ t.halt = some ⟨cause, s.pc - 2#16, w⟩ ∧
    SameExcept [.pc, .mode, .halt] s t

/-! ### Sprites -/

/-- The sprite of `Dxyn` covers pixel `(px, py)` with a set bit (R150, R152): row `r` is the byte at `I + r`, column `c` its bit `7 - c`,
and both coordinates wrap on their own. -/
def SpriteCovers (s : State) (x y : Reg) (n : Nibble) (px py : Nat) : Prop :=
  ∃ r c : Nat, r < n.toNat ∧ c < 8 ∧ (s.memRead (s.i.toNat + r)).getLsbD (7 - c) = true ∧
    px = ((s.getV x).toNat + c) % 64 ∧ py = ((s.getV y).toNat + r) % 32

/-! ### Sequences -/

/-- The meanings of several instructions, one after the other, with no fetch between them. -/
def execAll : List Instr → State → Result
  | [], s => .next s
  | i :: is, s =>
    match exec i s with
    | .next t => execAll is t
    | .fault f => .fault f
    | .refused r => .refused r

/-- A safe run of the core is one that never stops for good: the engine is not Halted (R213, R217). -/
def Safe (s : State) : Prop := s.mode ≠ .halted

end Sys2Proof.Machine
end

