-- ==== Sys2Proof/Certificates/Slice0/Obligations.lean ====
section
/-! DEFINITION. The statements about the core. A meaning runs in the state the fetch leaves, whose `PC` is `pc0 + 2`
(spec/30_encoding.md R79), so "PC stays `pc0 + 2`" reads `t.pc = s.pc` there. -/

open Sys2Proof Sys2Proof.Machine

/-! ### Encoding -/

/-- R74: words written out from the opcode map, at least one instruction of each of the sixteen groups, decode to their instructions; the SYS word
is the spec's own decision D12 and the unlisted patterns, refused by name, its decision D11 (log entry 10). -/
def Obligations.WrittenOutWordsDecode : Prop :=
  decode 0x00E0#16 = .ok .cls ∧ decode 0x00EE#16 = .ok .ret ∧ decode 0x00E1#16 = .ok (.sys 0x0E1#12) ∧
  decode 0x1234#16 = .ok (.jp 0x234#12) ∧ decode 0x2ABC#16 = .ok (.call 0xABC#12) ∧
  decode 0x3342#16 = .ok (.seImm 3#4 0x42#8) ∧ decode 0x4342#16 = .ok (.sneImm 3#4 0x42#8) ∧
  decode 0x5120#16 = .ok (.seReg 1#4 2#4) ∧ decode 0x6A3C#16 = .ok (.ldImm 0xA#4 0x3C#8) ∧
  decode 0x70FF#16 = .ok (.addImm 0#4 0xFF#8) ∧ decode 0x9120#16 = .ok (.sneReg 1#4 2#4) ∧
  decode 0x8125#16 = .ok (.sub 1#4 2#4) ∧ decode 0x812E#16 = .ok (.shl 1#4 2#4) ∧
  decode 0xA123#16 = .ok (.ldI 0x123#12) ∧ decode 0xB300#16 = .ok (.jpV0 0x300#12) ∧
  decode 0xC00F#16 = .ok (.rnd 0#4 0x0F#8) ∧
  decode 0xD125#16 = .ok (.drw 1#4 2#4 5#4) ∧ decode 0xE1A1#16 = .ok (.sknp 1#4) ∧
  decode 0xFA15#16 = .ok (.ldDtVx 0xA#4) ∧ decode 0xF255#16 = .ok (.ldMemVx 2#4) ∧
  decode 0x5121#16 = .error (.group5 1#4) ∧ decode 0x8128#16 = .error (.group8 8#4) ∧
  decode 0x9121#16 = .error (.group9 1#4) ∧ decode 0xE09F#16 = .error (.groupE 0x9F#8) ∧
  decode 0xF0FF#16 = .error (.groupF 0xFF#8)

/-- R74: the opcode map, every row and every unlisted pattern. -/
def Obligations.DecodeIsTheOpcodeMap : Prop :=
  (decode 0x00E0#16 = .ok .cls ∧ decode 0x00EE#16 = .ok .ret) ∧
  (∀ nnn : Addr, nnn ≠ 0x0E0#12 → nnn ≠ 0x0EE#12 → decode (0x0#4 ++ nnn) = .ok (.sys nnn)) ∧
  (∀ nnn : Addr, decode (0x1#4 ++ nnn) = .ok (.jp nnn) ∧ decode (0x2#4 ++ nnn) = .ok (.call nnn) ∧
    decode (0xA#4 ++ nnn) = .ok (.ldI nnn) ∧ decode (0xB#4 ++ nnn) = .ok (.jpV0 nnn)) ∧
  (∀ (x : Reg) (nn : Byte), decode (0x3#4 ++ x ++ nn) = .ok (.seImm x nn) ∧
    decode (0x4#4 ++ x ++ nn) = .ok (.sneImm x nn) ∧ decode (0x6#4 ++ x ++ nn) = .ok (.ldImm x nn) ∧
    decode (0x7#4 ++ x ++ nn) = .ok (.addImm x nn) ∧ decode (0xC#4 ++ x ++ nn) = .ok (.rnd x nn)) ∧
  (∀ (x y : Reg) (n : Nibble), decode (0xD#4 ++ x ++ y ++ n) = .ok (.drw x y n)) ∧
  (∀ x y : Reg, decode (0x5#4 ++ x ++ y ++ 0x0#4) = .ok (.seReg x y) ∧
    decode (0x9#4 ++ x ++ y ++ 0x0#4) = .ok (.sneReg x y)) ∧
  (∀ (x y : Reg) (n : Nibble), n ≠ 0x0#4 →
    (∃ e, decode (0x5#4 ++ x ++ y ++ n) = .error e) ∧ (∃ e, decode (0x9#4 ++ x ++ y ++ n) = .error e)) ∧
  (∀ x y : Reg, decode (0x8#4 ++ x ++ y ++ 0x0#4) = .ok (.ldReg x y) ∧
    decode (0x8#4 ++ x ++ y ++ 0x1#4) = .ok (.or x y) ∧ decode (0x8#4 ++ x ++ y ++ 0x2#4) = .ok (.and x y) ∧
    decode (0x8#4 ++ x ++ y ++ 0x3#4) = .ok (.xor x y) ∧ decode (0x8#4 ++ x ++ y ++ 0x4#4) = .ok (.addReg x y) ∧
    decode (0x8#4 ++ x ++ y ++ 0x5#4) = .ok (.sub x y) ∧ decode (0x8#4 ++ x ++ y ++ 0x6#4) = .ok (.shr x y) ∧
    decode (0x8#4 ++ x ++ y ++ 0x7#4) = .ok (.subn x y) ∧ decode (0x8#4 ++ x ++ y ++ 0xE#4) = .ok (.shl x y)) ∧
  (∀ (x y : Reg) (n : Nibble), n ∈ [0x8#4, 0x9#4, 0xA#4, 0xB#4, 0xC#4, 0xD#4, 0xF#4] →
    ∃ e, decode (0x8#4 ++ x ++ y ++ n) = .error e) ∧
  (∀ x : Reg, decode (0xE#4 ++ x ++ 0x9E#8) = .ok (.skp x) ∧ decode (0xE#4 ++ x ++ 0xA1#8) = .ok (.sknp x)) ∧
  (∀ (x : Reg) (nn : Byte), nn ∉ [0x9E#8, 0xA1#8] → ∃ e, decode (0xE#4 ++ x ++ nn) = .error e) ∧
  (∀ x : Reg, decode (0xF#4 ++ x ++ 0x07#8) = .ok (.ldVxDt x) ∧ decode (0xF#4 ++ x ++ 0x0A#8) = .ok (.ldVxK x) ∧
    decode (0xF#4 ++ x ++ 0x15#8) = .ok (.ldDtVx x) ∧ decode (0xF#4 ++ x ++ 0x18#8) = .ok (.ldStVx x) ∧
    decode (0xF#4 ++ x ++ 0x1E#8) = .ok (.addI x) ∧ decode (0xF#4 ++ x ++ 0x29#8) = .ok (.ldF x) ∧
    decode (0xF#4 ++ x ++ 0x33#8) = .ok (.ldB x) ∧ decode (0xF#4 ++ x ++ 0x55#8) = .ok (.ldMemVx x) ∧
    decode (0xF#4 ++ x ++ 0x65#8) = .ok (.ldVxMem x)) ∧
  (∀ (x : Reg) (nn : Byte),
    nn ∉ [0x07#8, 0x0A#8, 0x15#8, 0x18#8, 0x1E#8, 0x29#8, 0x33#8, 0x55#8, 0x65#8] →
      ∃ e, decode (0xF#4 ++ x ++ nn) = .error e)

/-- Decoding the word of a well-formed instruction gives the instruction back, every operand at every value. -/
def Obligations.DecodeOfEncodeIsTheInstruction : Prop :=
  ∀ i : Instr, i.wf = true → decode (encode i) = .ok i

/-- A word has one meaning: what it decodes to is well formed and encodes to that word, so no bit of a word is dropped. -/
def Obligations.EncodeOfDecodeIsTheWord : Prop :=
  ∀ (w : Word) (i : Instr), decode w = .ok i → i.wf = true ∧ encode i = w

/-- The decoder against spec/opcode_table.json: a word decodes to an instruction only if it matches that instruction's row under the row's mask. -/
def Obligations.DecodedWordMatchesItsRow : Prop :=
  ∀ (w : Word) (i : Instr), decode w = .ok i → w &&& (opcodeRow i).2 = (opcodeRow i).1

/-! ### The step -/

/-- R79, R52: in Running a step fetches the big-endian word at PC, advances PC by 2 and runs what the word decodes to. -/
def Obligations.StepRunsTheDecodedInstruction : Prop :=
  ∀ (s : State) (i : Instr), s.mode = .running →
    decode (s.memRead s.pc.toNat ++ s.memRead (s.pc.toNat + 1)) = .ok i →
      step s = exec i (s.setPc (s.pc + 2#16))

/-- R76, R211, R212: a word that decodes to nothing, or to SYS, is a decode error, by policy, and runs no part of an instruction. -/
def Obligations.IllegalWordIsADecodeError : Prop :=
  ∀ (s : State) (w : Word), s.mode = .running → w = s.memRead s.pc.toNat ++ s.memRead (s.pc.toNat + 1) →
    ((∃ e, decode w = .error e) ∨ ∃ nnn, decode w = .ok (.sys nnn)) →
      ∃ t, step s = .next t ∧ DecodeErrorLeaves w s t

/-- R80: in AwaitingKey and in Halted a step changes nothing. -/
def Obligations.StepIdlesOutsideRunning : Prop :=
  ∀ s : State, (s.mode = .awaitingKey ∨ s.mode = .halted) → step s = .next s

/-- R216, R210: a step always answers a next state; nothing faults and nothing is refused. -/
def Obligations.StepAlwaysAnswersANextState : Prop :=
  ∀ s : State, ∃ t, step s = .next t

/-- R22 to R32, R54: a step changes PC and what its instruction may write, and nothing else: no other register, byte of memory, timer, key or pixel. -/
def Obligations.StepWritesOnlyWhatItsInstructionMay : Prop :=
  ∀ (s t : State) (i : Instr), decode s.fetchWord = .ok i → step s = .next t →
    SameExcept (.pc :: mayWrite s i) s t

/-- R213, R210, R219: a step that halts leaves the state before it but for mode and halt record, and the record names the one error the word can raise. -/
def Obligations.FatalStepLeavesTheStateBeforeIt : Prop :=
  ∀ s t : State, s.mode = .running → step s = .next t → ¬ Safe t →
    ∃ cause : ErrorCause,
      t = (s.setMode .halted).setHalt (some ⟨cause, s.pc, s.fetchWord⟩) ∧
      ((cause = .decodeError ∧ s.cfg.decodeErrorPolicy = .halt ∧
          ((∃ e, decode s.fetchWord = .error e) ∨ ∃ nnn, decode s.fetchWord = .ok (.sys nnn))) ∨
        (cause = .stackOverflow ∧ 16 ≤ s.sp ∧ ∃ nnn, decode s.fetchWord = .ok (.call nnn)) ∨
        (cause = .stackUnderflow ∧ s.sp = 0 ∧ decode s.fetchWord = .ok .ret))

/-! ### The invariant -/

/-- The power-on state meets the invariant, for all parameters. -/
def Obligations.ResetMeetsTheInvariant : Prop :=
  CoreInv State.reset ∧ ∀ cfg : Config, CoreInv (State.powerOn cfg)

/-- Every step keeps the invariant: canonical memory, `I` below 4096 (R23), at most 16 return addresses (R25), a halt record exactly in Halted (R31). -/
def Obligations.StepKeepsTheInvariant : Prop :=
  ∀ s t : State, CoreInv s → step s = .next t → CoreInv t

/-- Every host operation keeps the invariant: the memory's canonical form is the model's (log entry 4), `I` below 4096 an inference the spec
marks as its own (R23), the depth of 16 its decision D3, the record exactly in Halted its decision D5 (log entry 10). -/
def Obligations.HostOperationsKeepTheInvariant : Prop :=
  ∀ (op : HostOp) (s : State) (r : Served), CoreInv s → perform op s = .next r → CoreInv r.state

/-! ### Control transfer -/

/-- R101: SYS is a decode error, under both policies. -/
def Obligations.SysIsADecodeError : Prop :=
  ∀ nnn : Addr, nnn ≠ 0x0E0#12 → nnn ≠ 0x0EE#12 →
    decode (0x0#4 ++ nnn) = .ok (.sys nnn) ∧
    ∀ s : State, ∃ t, exec (.sys nnn) s = .next t ∧
      (s.cfg.decodeErrorPolicy = .skip →
        t.diag = s.diag ++ [⟨s.pc - 2#16, 0x0#4 ++ nnn⟩] ∧ SameExcept [.diag] s t) ∧
      (s.cfg.decodeErrorPolicy = .halt → FatalDuring .decodeError (0x0#4 ++ nnn) s t)

/-- R102, R215: RET pops the return address into PC; on an empty stack it is fatal. -/
def Obligations.RetPopsTheReturnAddress : Prop :=
  decode 0x00EE#16 = .ok .ret ∧
  (∀ (s : State) (rest : List Word) (target : Word), s.stack = rest ++ [target] →
    ∃ t, exec .ret s = .next t ∧ t.pc = target ∧ t.stack = rest ∧ SameExcept [.pc, .stack] s t) ∧
  (∀ s : State, s.stack = [] → ∃ t, exec .ret s = .next t ∧ FatalDuring .stackUnderflow 0x00EE#16 s t)

/-- R103, R109: JP sets PC to `nnn`, JP V0 to `nnn + V[0]`, not reduced. -/
def Obligations.JumpsSetThePc : Prop :=
  ∀ nnn : Addr,
    decode (0x1#4 ++ nnn) = .ok (.jp nnn) ∧ decode (0xB#4 ++ nnn) = .ok (.jpV0 nnn) ∧
    ∀ s : State,
      (∃ t, exec (.jp nnn) s = .next t ∧ t.pc.toNat = nnn.toNat ∧ SameExcept [.pc] s t) ∧
      (∃ t, exec (.jpV0 nnn) s = .next t ∧ t.pc.toNat = nnn.toNat + (s.getV 0#4).toNat ∧ SameExcept [.pc] s t)

/-- R104, R214: CALL pushes the return address and sets PC; with 16 return addresses on the stack it is fatal. -/
def Obligations.CallPushesTheReturnAddress : Prop :=
  ∀ nnn : Addr,
    decode (0x2#4 ++ nnn) = .ok (.call nnn) ∧
    (∀ s : State, s.sp < 16 →
      ∃ t, exec (.call nnn) s = .next t ∧ t.stack = s.stack ++ [s.pc] ∧ t.sp = s.sp + 1 ∧
        t.pc.toNat = nnn.toNat ∧ SameExcept [.pc, .stack] s t) ∧
    (∀ s : State, s.sp = 16 → ∃ t, exec (.call nnn) s = .next t ∧ FatalDuring .stackOverflow (0x2#4 ++ nnn) s t)

/-- R105, R106: the skips on a register and a byte. -/
def Obligations.SkipsOnImmediate : Prop :=
  ∀ (x : Reg) (nn : Byte),
    decode (0x3#4 ++ x ++ nn) = .ok (.seImm x nn) ∧ decode (0x4#4 ++ x ++ nn) = .ok (.sneImm x nn) ∧
    ∀ s : State,
      (∃ t, exec (.seImm x nn) s = .next t ∧ (s.getV x = nn → t.pc = s.pc + 2#16) ∧
        (s.getV x ≠ nn → t.pc = s.pc) ∧ SameExcept [.pc] s t) ∧
      (∃ t, exec (.sneImm x nn) s = .next t ∧ (s.getV x ≠ nn → t.pc = s.pc + 2#16) ∧
        (s.getV x = nn → t.pc = s.pc) ∧ SameExcept [.pc] s t)

/-- R107, R108: the skips on two registers. -/
def Obligations.SkipsOnRegisters : Prop :=
  ∀ x y : Reg,
    decode (0x5#4 ++ x ++ y ++ 0x0#4) = .ok (.seReg x y) ∧ decode (0x9#4 ++ x ++ y ++ 0x0#4) = .ok (.sneReg x y) ∧
    ∀ s : State,
      (∃ t, exec (.seReg x y) s = .next t ∧ (s.getV x = s.getV y → t.pc = s.pc + 2#16) ∧
        (s.getV x ≠ s.getV y → t.pc = s.pc) ∧ SameExcept [.pc] s t) ∧
      (∃ t, exec (.sneReg x y) s = .next t ∧ (s.getV x ≠ s.getV y → t.pc = s.pc + 2#16) ∧
        (s.getV x = s.getV y → t.pc = s.pc) ∧ SameExcept [.pc] s t)

/-- R102, R104 with source §8: `k` nested CALLs followed by `k` RETs restore PC and the stack, for every `k` the stack has room for. -/
def Obligations.NestedCallsReturn : Prop :=
  ∀ (targets : List Addr) (s : State), s.sp + targets.length ≤ 16 →
    ∃ t, execAll (targets.map .call ++ List.replicate targets.length .ret) s = .next t ∧
      t.pc = s.pc ∧ t.stack = s.stack ∧ SameExcept [] s t

/-! ### Loads and arithmetic -/

/-- R121, R123: the register loads. -/
def Obligations.RegisterLoads : Prop :=
  (∀ (x : Reg) (nn : Byte), decode (0x6#4 ++ x ++ nn) = .ok (.ldImm x nn) ∧
    ∀ s : State, ∃ t, exec (.ldImm x nn) s = .next t ∧ t.getV x = nn ∧ SameExcept [.v x] s t) ∧
  (∀ x y : Reg, decode (0x8#4 ++ x ++ y ++ 0x0#4) = .ok (.ldReg x y) ∧
    ∀ s : State, ∃ t, exec (.ldReg x y) s = .next t ∧ t.getV x = s.getV y ∧ SameExcept [.v x] s t)

/-- R122: add an immediate modulo 256, no carry flag. -/
def Obligations.AddImmediateWrapsWithoutFlag : Prop :=
  ∀ (x : Reg) (nn : Byte), decode (0x7#4 ++ x ++ nn) = .ok (.addImm x nn) ∧
    ∀ s : State, ∃ t, exec (.addImm x nn) s = .next t ∧
      (t.getV x).toNat = ((s.getV x).toNat + nn.toNat) % 256 ∧ SameExcept [.v x] s t

/-- R124, R125, R126: OR, AND, XOR bit by bit; VF is not reset. -/
def Obligations.LogicalOperations : Prop :=
  ∀ x y : Reg,
    decode (0x8#4 ++ x ++ y ++ 0x1#4) = .ok (.or x y) ∧ decode (0x8#4 ++ x ++ y ++ 0x2#4) = .ok (.and x y) ∧
    decode (0x8#4 ++ x ++ y ++ 0x3#4) = .ok (.xor x y) ∧
    ∀ s : State,
      (∃ t, exec (.or x y) s = .next t ∧
        (∀ k < 8, (t.getV x).getLsbD k = ((s.getV x).getLsbD k || (s.getV y).getLsbD k)) ∧ SameExcept [.v x] s t) ∧
      (∃ t, exec (.and x y) s = .next t ∧
        (∀ k < 8, (t.getV x).getLsbD k = ((s.getV x).getLsbD k && (s.getV y).getLsbD k)) ∧ SameExcept [.v x] s t) ∧
      (∃ t, exec (.xor x y) s = .next t ∧
        (∀ k < 8, (t.getV x).getLsbD k = ((s.getV x).getLsbD k ^^ (s.getV y).getLsbD k)) ∧ SameExcept [.v x] s t)

/-- R127: the sum modulo 256, VF 1 exactly when the sum exceeds 255, VF last. -/
def Obligations.AddSetsTheCarry : Prop :=
  ∀ x y : Reg, decode (0x8#4 ++ x ++ y ++ 0x4#4) = .ok (.addReg x y) ∧
    ∀ s : State, ∃ t, exec (.addReg x y) s = .next t ∧
      (x ≠ 0xF#4 → (t.getV x).toNat = ((s.getV x).toNat + (s.getV y).toNat) % 256) ∧
      (255 < (s.getV x).toNat + (s.getV y).toNat → t.getV 0xF#4 = 1#8) ∧
      ((s.getV x).toNat + (s.getV y).toNat ≤ 255 → t.getV 0xF#4 = 0#8) ∧
      SameExcept [.v x, .v 0xF#4] s t

/-- R128, R130: the difference modulo 256, VF 1 exactly when the minuend is strictly greater, VF last. -/
def Obligations.SubtractionsSetStrictlyGreater : Prop :=
  ∀ x y : Reg,
    decode (0x8#4 ++ x ++ y ++ 0x5#4) = .ok (.sub x y) ∧ decode (0x8#4 ++ x ++ y ++ 0x7#4) = .ok (.subn x y) ∧
    ∀ s : State,
      (∃ t, exec (.sub x y) s = .next t ∧
        (x ≠ 0xF#4 → (t.getV x).toNat = (256 + (s.getV x).toNat - (s.getV y).toNat) % 256) ∧
        ((s.getV y).toNat < (s.getV x).toNat → t.getV 0xF#4 = 1#8) ∧
        ((s.getV x).toNat ≤ (s.getV y).toNat → t.getV 0xF#4 = 0#8) ∧ SameExcept [.v x, .v 0xF#4] s t) ∧
      (∃ t, exec (.subn x y) s = .next t ∧
        (x ≠ 0xF#4 → (t.getV x).toNat = (256 + (s.getV y).toNat - (s.getV x).toNat) % 256) ∧
        ((s.getV x).toNat < (s.getV y).toNat → t.getV 0xF#4 = 1#8) ∧
        ((s.getV y).toNat ≤ (s.getV x).toNat → t.getV 0xF#4 = 0#8) ∧ SameExcept [.v x, .v 0xF#4] s t)

/-- R129, R131: logical shifts of `V[x]` by one, VF the bit shifted out, VF last; `y` plays no part. -/
def Obligations.ShiftsSetTheBitShiftedOut : Prop :=
  ∀ x y : Reg,
    decode (0x8#4 ++ x ++ y ++ 0x6#4) = .ok (.shr x y) ∧ decode (0x8#4 ++ x ++ y ++ 0xE#4) = .ok (.shl x y) ∧
    ∀ s : State,
      (∃ t, exec (.shr x y) s = .next t ∧
        (x ≠ 0xF#4 → (t.getV x).toNat = (s.getV x).toNat / 2) ∧
        (t.getV 0xF#4).toNat = (s.getV x).toNat % 2 ∧ SameExcept [.v x, .v 0xF#4] s t) ∧
      (∃ t, exec (.shl x y) s = .next t ∧
        (x ≠ 0xF#4 → (t.getV x).toNat = (s.getV x).toNat * 2 % 256) ∧
        (t.getV 0xF#4).toNat = (s.getV x).toNat / 128 ∧ SameExcept [.v x, .v 0xF#4] s t)

/-- R132, R134, R153: the three writers of `I`; no flag. -/
def Obligations.IndexRegisterWrites : Prop :=
  (∀ nnn : Addr, decode (0xA#4 ++ nnn) = .ok (.ldI nnn) ∧
    ∀ s : State, ∃ t, exec (.ldI nnn) s = .next t ∧ t.i.toNat = nnn.toNat ∧ SameExcept [.i] s t) ∧
  (∀ x : Reg, decode (0xF#4 ++ x ++ 0x1E#8) = .ok (.addI x) ∧
    ∀ s : State, ∃ t, exec (.addI x) s = .next t ∧
      t.i.toNat = (s.i.toNat + (s.getV x).toNat) % 4096 ∧ SameExcept [.i] s t) ∧
  (∀ x : Reg, decode (0xF#4 ++ x ++ 0x29#8) = .ok (.ldF x) ∧
    ∀ s : State, ∃ t, exec (.ldF x) s = .next t ∧
      t.i.toNat = 0x050 + (s.getV x).toNat * 5 ∧ SameExcept [.i] s t)

/-- R133, R6: RND takes exactly one draw and writes it under the mask, whatever the draw; that the draw is `Config.randomByte` at the model's own
counter, which then advances, is log entry 2. -/
def Obligations.RandomByteIsMasked : Prop :=
  ∀ (x : Reg) (nn : Byte), decode (0xC#4 ++ x ++ nn) = .ok (.rnd x nn) ∧
    ∀ s : State, ∃ t, exec (.rnd x nn) s = .next t ∧
      t.getV x = s.nextRandom &&& nn ∧ t.draws = s.draws + 1 ∧ (∀ k < 8, nn.getLsbD k = false → (t.getV x).getLsbD k = false) ∧
      SameExcept [.v x, .draws] s t

/-! ### Display -/

/-- R151: CLS clears every pixel and nothing else. -/
def Obligations.ClsClearsEveryPixel : Prop :=
  decode 0x00E0#16 = .ok .cls ∧
  ∀ s : State, ∃ t, exec .cls s = .next t ∧ (∀ px py : Nat, px < 64 → py < 32 → t.pixel px py = false) ∧
    SameExcept [.display] s t

/-- R152 (its pseudocode), R150: DRW toggles exactly the pixels the sprite covers, each coordinate wrapping on its own, and VF is 1 exactly when one of them was lit. -/
def Obligations.DrawTogglesTheCoveredPixels : Prop :=
  ∀ (x y : Reg) (n : Nibble), decode (0xD#4 ++ x ++ y ++ n) = .ok (.drw x y n) ∧
    ∀ s : State, ∃ t, exec (.drw x y n) s = .next t ∧
      (∀ px py : Nat, px < 64 → py < 32 →
        (SpriteCovers s x y n px py → t.pixel px py = !s.pixel px py) ∧
        (¬ SpriteCovers s x y n px py → t.pixel px py = s.pixel px py)) ∧
      ((∃ px py : Nat, SpriteCovers s x y n px py ∧ s.pixel px py = true) → t.getV 0xF#4 = 1#8) ∧
      (¬ (∃ px py : Nat, SpriteCovers s x y n px py ∧ s.pixel px py = true) → t.getV 0xF#4 = 0#8) ∧
      SameExcept [.display, .v 0xF#4] s t

/-- R152 with source §8: the same sprite drawn twice at the same place restores the display; the second draw reports 1 exactly when a covered
pixel was dark at the start (log entry 9 says where the spec's sentence is looser). -/
def Obligations.DrawingTwiceRestoresTheDisplay : Prop :=
  ∀ (x y : Reg) (n : Nibble) (s t : State), exec (.drw x y n) s = .next t →
    t.getV x = s.getV x → t.getV y = s.getV y →
      ∃ u, exec (.drw x y n) t = .next u ∧ u.display = s.display ∧
        (u.getV 0xF#4 = 1#8 ↔ ∃ px py : Nat, SpriteCovers s x y n px py ∧ s.pixel px py = false)

/-! ### Keys and timers -/

/-- R171, R172, R170: the key skips; a key number of 16 or more is not held. -/
def Obligations.KeySkips : Prop :=
  ∀ x : Reg, decode (0xE#4 ++ x ++ 0x9E#8) = .ok (.skp x) ∧ decode (0xE#4 ++ x ++ 0xA1#8) = .ok (.sknp x) ∧
    ∀ s : State,
      (∃ t, exec (.skp x) s = .next t ∧ SameExcept [.pc] s t ∧
        (∀ h : (s.getV x).toNat < 16, t.pc = if s.keys[(s.getV x).toNat] then s.pc + 2#16 else s.pc) ∧
        (16 ≤ (s.getV x).toNat → t.pc = s.pc)) ∧
      (∃ t, exec (.sknp x) s = .next t ∧ SameExcept [.pc] s t ∧
        (∀ h : (s.getV x).toNat < 16, t.pc = if s.keys[(s.getV x).toNat] then s.pc else s.pc + 2#16) ∧
        (16 ≤ (s.getV x).toNat → t.pc = s.pc + 2#16))

/-- `Fx0A` fills the key-wait slot and writes nothing else now (R28, R173). -/
def Obligations.KeyWaitFillsTheSlot : Prop :=
  ∀ x : Reg, decode (0xF#4 ++ x ++ 0x0A#8) = .ok (.ldVxK x) ∧
    ∀ s : State, ∃ t, exec (.ldVxK x) s = .next t ∧ t.waitReg = x ∧ t.mode = .awaitingKey ∧
      SameExcept [.mode, .waitReg] s t

/-- R173: after `Fx0A`, whatever keys are held, batches without key events change only the timers, one decrement each, a release does not
complete the wait, and the first press of key `k` writes `k` into `V[x]` and resumes at `pc0 + 2`. -/
def Obligations.KeyWaitHoldsUntilAPress : Prop :=
  ∀ (x : Reg) (s : State) (batches : List Nat) (k r : Nat), s.mode = .running →
    s.fetchWord = 0xF#4 ++ x ++ 0x0A#8 → k < 16 → r < 16 →
      ∃ t u : State,
        performAll (.step :: (batches.map .runBatch ++ [.setKey r false])) s = .next t ∧
        t.mode = .awaitingKey ∧ t.waitReg = x ∧ t.pc = s.pc + 2#16 ∧
        t.delay.toNat = s.delay.toNat - batches.length ∧ t.sound.toNat = s.sound.toNat - batches.length ∧
        SameExcept [.pc, .mode, .waitReg, .delay, .sound, .keys] s t ∧
        performAll [.setKey k true] t = .next u ∧
        u.mode = .running ∧ (u.getV x).toNat = k ∧ SameExcept [.v x, .mode, .keys] t u

/-- R174, R175, R176: reading and writing the timers. -/
def Obligations.TimerInstructions : Prop :=
  ∀ x : Reg,
    decode (0xF#4 ++ x ++ 0x07#8) = .ok (.ldVxDt x) ∧ decode (0xF#4 ++ x ++ 0x15#8) = .ok (.ldDtVx x) ∧
    decode (0xF#4 ++ x ++ 0x18#8) = .ok (.ldStVx x) ∧
    ∀ s : State,
      (∃ t, exec (.ldVxDt x) s = .next t ∧ t.getV x = s.delay ∧ SameExcept [.v x] s t) ∧
      (∃ t, exec (.ldDtVx x) s = .next t ∧ t.delay = s.getV x ∧ SameExcept [.delay] s t) ∧
      (∃ t, exec (.ldStVx x) s = .next t ∧ t.sound = s.getV x ∧ SameExcept [.sound] s t)

/-! ### Memory transfers -/

/-- R190: the decimal digits at `I`, `I + 1`, `I + 2`, each address reduced modulo 4096; every other byte and all else unchanged. -/
def Obligations.DecimalDigitsAreStored : Prop :=
  ∀ x : Reg, decode (0xF#4 ++ x ++ 0x33#8) = .ok (.ldB x) ∧
    ∀ s : State, ∃ t, exec (.ldB x) s = .next t ∧
      (t.memRead (s.atI 0)).toNat = (s.getV x).toNat / 100 ∧
      (t.memRead (s.atI 1)).toNat = (s.getV x).toNat / 10 % 10 ∧
      (t.memRead (s.atI 2)).toNat = (s.getV x).toNat % 10 ∧
      SameExcept [.byteAt (s.atI 0), .byteAt (s.atI 1), .byteAt (s.atI 2)] s t

/-- R191: `V[0]` to `V[x]` at `I` and up; every other byte, `I` and all else unchanged. -/
def Obligations.RegistersAreStored : Prop :=
  ∀ x : Reg, decode (0xF#4 ++ x ++ 0x55#8) = .ok (.ldMemVx x) ∧
    ∀ s : State, ∃ t, exec (.ldMemVx x) s = .next t ∧
      (∀ r : Reg, r.toNat ≤ x.toNat → t.memRead (s.atI r.toNat) = s.getV r) ∧
      SameExcept ((List.range (x.toNat + 1)).map fun k => .byteAt (s.atI k)) s t

/-- R192: `V[0]` to `V[x]` from `I` and up; every other register, `I`, all of memory and all else unchanged. -/
def Obligations.RegistersAreLoaded : Prop :=
  ∀ x : Reg, decode (0xF#4 ++ x ++ 0x65#8) = .ok (.ldVxMem x) ∧
    ∀ s : State, ∃ t, exec (.ldVxMem x) s = .next t ∧
      (∀ r : Reg, r.toNat ≤ x.toNat → t.getV r = s.memRead (s.i.toNat + r.toNat)) ∧
      SameExcept ((List.range (x.toNat + 1)).map fun k => .v (BitVec.ofNat 4 k)) s t

/-- R192's round trip: `Fx55` then `Fx65` with the same `x` and `I` restores `V[0]` to `V[x]`, whatever happened in between to anything but those bytes and `I`. -/
def Obligations.StoreThenLoadRestoresRegisters : Prop :=
  ∀ (x : Reg) (s t u : State), exec (.ldMemVx x) s = .next t →
    (∀ k ≤ x.toNat, u.memRead (t.i.toNat + k) = t.memRead (t.i.toNat + k)) → u.i = t.i →
      ∃ w, exec (.ldVxMem x) u = .next w ∧ ∀ r : Reg, r.toNat ≤ x.toNat → w.getV r = s.getV r

/-- R61, R257: a word stored by `Fx55` over the bytes at `p` is the word fetched there next, wherever `p` stands in the stored block. -/
def Obligations.StoredWordIsFetched : Prop :=
  ∀ (x r : Reg) (s t : State) (p : Word), exec (.ldMemVx x) s = .next t → r.toNat < x.toNat →
    p.toNat % 4096 = (s.i.toNat + r.toNat) % 4096 →
      (t.setPc p).fetchWord = s.getV r ++ s.getV (r + 1#4)

/-- The model's memory form (log entry 4): two canonical memories that read the same everywhere are equal data. -/
def Obligations.CanonicalMemoryIsUnique : Prop :=
  ∀ (font : Vector Byte 80) (m m' : Memory), Memory.wf font m = true → Memory.wf font m' = true →
    (∀ a < 4096, Memory.read font m a = Memory.read font m' a) → m = m'

/-! ### The host's operations -/

/-- R251, R33: a `load` of at most 3584 bytes succeeds and leaves every component at its value, in any mode before (R253). -/
def Obligations.LoadResetsTheMachine : Prop :=
  ∀ (rom : List Byte) (s : State), rom.length ≤ 3584 →
    ∃ t, load rom s = (t, .ok) ∧
      (∀ k : Nat, ∀ h : k < rom.length, t.memRead (0x200 + k) = rom[k]) ∧
      (∀ k : Nat, ∀ h : k < 80, t.memRead (0x050 + k) = s.cfg.font[k]) ∧
      (∀ a : Nat, a < 4096 → ¬ (0x050 ≤ a ∧ a < 0x0A0) → ¬ (0x200 ≤ a ∧ a < 0x200 + rom.length) →
        t.memRead a = 0#8) ∧
      (∀ r : Reg, t.getV r = 0#8) ∧ t.i = 0#16 ∧ t.pc = 0x200#16 ∧ t.stack = [] ∧
      t.delay = 0#8 ∧ t.sound = 0#8 ∧ (∀ k : Nat, ∀ h : k < 16, t.keys[k] = false) ∧
      t.mode = .running ∧ t.waitReg = 0#4 ∧
      (∀ px py : Nat, px < 64 → py < 32 → t.pixel px py = false) ∧ t.halt = none ∧ t.diag = [] ∧
      t.cfg = s.cfg

/-- R252: a ROM of up to 3584 bytes always loads; a ROM of more than 3584 bytes is rejected with the state as it was, or its first 3584 bytes are loaded, by policy
(the spec's decision D2). That the rejection returns the ROM's length, which R210 records, is the model's choice (log entry 13). -/
def Obligations.OversizeRomByPolicy : Prop :=
  ∀ (rom : List Byte) (s : State), (rom.length ≤ 3584 → (load rom s).2 = .ok) ∧ (3584 < rom.length →
    (s.cfg.romOversizePolicy = .reject → load rom s = (s, .romTooLarge rom.length)) ∧
    (s.cfg.romOversizePolicy = .truncate → load rom s = load (rom.take 3584) s ∧ (load rom s).2 = .ok))

/-- R250: the power-on state is the one a `load` of an empty ROM leaves (the model's draw counter aside, log entry 2), and run before any `load` it meets a decode error at 0x200. -/
def Obligations.PowerOnIsTheLoadOfAnEmptyRom : Prop :=
  (∀ s : State, (load [] s).2 = .ok ∧ SameExcept [.draws] (load [] s).1 (State.powerOn s.cfg)) ∧
  (∀ cfg : Config, (State.powerOn cfg).fetchWord = 0x0000#16 ∧
    ∃ t, step (State.powerOn cfg) = .next t ∧ DecodeErrorLeaves 0x0000#16 (State.powerOn cfg) t)

/-- R232: `set_key` writes one key; a press completes a pending wait; an index above 15 is refused (D17, D23), and a refused call in a
sequence leaves the state unchanged (R11): the calls after it run from where it was (log entry 13). -/
def Obligations.SetKeyWritesTheLatch : Prop :=
  (∀ (k : Nat) (p : Bool) (s : State), 15 < k → setKey k p s = .refused (.keyOutOfRange k) ∧
    ∀ ops : List HostOp, performAll (.setKey k p :: ops) s = performAll ops s) ∧
  (∀ (k : Nat) (hk : k < 16) (p : Bool) (s : State), ∃ t, setKey k p s = .next t ∧
    t.keys[k] = p ∧ (∀ j : Nat, ∀ hj : j < 16, j ≠ k → t.keys[j] = s.keys[j]) ∧
    (s.mode = .awaitingKey → p = true →
      (t.getV s.waitReg).toNat = k ∧ t.mode = .running ∧ SameExcept [.keys, .v s.waitReg, .mode] s t) ∧
    (s.mode ≠ .awaitingKey ∨ p = false → SameExcept [.keys] s t))

/-- R224, R222, R80: `run_batch(n)` is `n` steps and then one decrement of each timer, floored at zero, unless the engine is Halted: leaving the loop early is the same as performing the remaining no-op steps. -/
def Obligations.BatchIsStepsThenOneDecrement : Prop :=
  ∀ (n : Nat) (s : State), ∃ t u : State,
    Host.Core.run Sys2Proof.core n s = Host.Outcome.next t ∧ runBatch n s = .next u ∧
      (t.mode = .halted → u = t) ∧
      (t.mode ≠ .halted → u.delay.toNat = t.delay.toNat - 1 ∧ u.sound.toNat = t.sound.toNat - 1 ∧
        SameExcept [.delay, .sound] t u)

/-- R27, R259, R212: no batch changes the key latch or the instance's parameters. -/
def Obligations.BatchKeepsKeysAndParameters : Prop :=
  ∀ (n : Nat) (s t : State), runBatch n s = .next t → t.keys = s.keys ∧ t.cfg = s.cfg

/-- R217: Halted is absorbing. `step` and `run_batch` change nothing, `set_key` updates only the latch, and only a successful `load` leaves it. -/
def Obligations.HaltedIsAbsorbing : Prop :=
  ∀ s : State, ¬ Safe s →
    step s = .next s ∧ (∀ n : Nat, runBatch n s = .next s) ∧
    (∀ (k : Nat) (p : Bool), k < 16 → ∃ t, setKey k p s = .next t ∧ SameExcept [.keys] s t) ∧
    (∀ (op : HostOp) (r : Served), perform op s = .next r → Safe r.state →
      ∃ rom, op = .load rom ∧ r.reply = .loadResult .ok)

/-- R30: the transitions of the engine mode, and no other, over every host operation. -/
def Obligations.ModeTransitions : Prop :=
  ∀ (op : HostOp) (s : State) (r : Served), perform op s = .next r → r.state.mode ≠ s.mode →
    (∃ rom, op = .load rom ∧ r.reply = .loadResult .ok ∧ r.state.mode = .running) ∨
    (s.mode = .awaitingKey ∧ (∃ k, op = .setKey k true) ∧ r.state.mode = .running) ∨
    (s.mode = .running ∧ (op = .step ∨ ∃ n, op = .runBatch n) ∧ r.state.mode = .halted) ∨
    (s.mode = .running ∧ (op = .step ∨ ∃ n, op = .runBatch n) ∧ r.state.mode = .awaitingKey ∧
      (op = .step → ∃ x, decode s.fetchWord = .ok (.ldVxK x)))

/-- R11, R216: every host operation answers, and the one refusal is that of a key index above 15. -/
def Obligations.OnlyABadKeyIndexIsRefused : Prop :=
  ∀ (op : HostOp) (s : State),
    (∃ r, perform op s = .next r) ∨
    (∃ (k : Nat) (p : Bool), op = .setKey k p ∧ 15 < k ∧ perform op s = .refused (.keyOutOfRange k))

/-- R231, R233, R234: the reads change nothing and return copies; `clear_diag` empties `diag` and nothing else; that it
returns nothing is the model's choice (log entry 17). -/
def Obligations.ReadsChangeNothing : Prop :=
  ∀ s : State,
    (∃ f : Frame, perform .readFrame s = .next ⟨s, .frame f⟩ ∧ f.sound = s.sound ∧ f.delay = s.delay ∧
      f.pixels.length = 2048 ∧ ∀ px py : Nat, px < 64 → py < 32 → f.pixels[py * 64 + px]? = some (s.pixel px py)) ∧
    perform .readStatus s = .next ⟨s, .status s.mode s.halt⟩ ∧
    perform .readDiag s = .next ⟨s, .diagnostics s.diag⟩ ∧
    (∃ t, perform .clearDiag s = .next ⟨t, .nothing⟩ ∧ t.diag = [] ∧ SameExcept [.diag] s t)

/-! ### What an instruction cannot see -/

/-- R26: no instruction reads `sound`: a step from two states that differ only there ends in two states that differ at most there. -/
def Obligations.SoundIsNeverRead : Prop :=
  ∀ (s t : State) (b : Byte), step s = .next t →
    step (s.setSound b) = .next (t.setSound b) ∨
      ((∃ x, decode s.fetchWord = .ok (.ldStVx x)) ∧ step (s.setSound b) = .next t)

/-- R235: the draws matter to `Cxnn` alone: any other step is the same from every count of draws, and takes none. -/
def Obligations.DrawsMatterOnlyToRandom : Prop :=
  ∀ (s t : State) (n : Nat), (∀ (x : Reg) (nn : Byte), decode s.fetchWord ≠ .ok (.rnd x nn)) →
    step s = .next t → t.draws = s.draws ∧ step (s.setDraws n) = .next (t.setDraws n)
end

