-- ==== Sys2Proof/Laws/Decode.lean ====
section
/-! SUPPORT. The fields of a word (spec/30_encoding.md R71) and the words of the formats (R72), each the other's inverse. -/

namespace Sys2Proof

/-! ### The fields as numbers -/

theorem opOf_toNat (w : Word) : (opOf w).toNat = w.toNat / 4096 := by
  simp only [opOf, BitVec.extractLsb'_toNat, Nat.shiftRight_eq_div_pow]; omega

theorem xOf_toNat (w : Word) : (xOf w).toNat = w.toNat / 256 % 16 := by
  simp only [xOf, BitVec.extractLsb'_toNat, Nat.shiftRight_eq_div_pow]

theorem yOf_toNat (w : Word) : (yOf w).toNat = w.toNat / 16 % 16 := by
  simp only [yOf, BitVec.extractLsb'_toNat, Nat.shiftRight_eq_div_pow]

theorem nOf_toNat (w : Word) : (nOf w).toNat = w.toNat % 16 := by
  simp only [nOf, BitVec.extractLsb'_toNat, Nat.shiftRight_zero]

theorem nnOf_toNat (w : Word) : (nnOf w).toNat = w.toNat % 256 := by
  simp only [nnOf, BitVec.extractLsb'_toNat, Nat.shiftRight_zero]

theorem nnnOf_toNat (w : Word) : (nnnOf w).toNat = w.toNat % 4096 := by
  simp only [nnnOf, BitVec.extractLsb'_toNat, Nat.shiftRight_zero]

/-! ### The formats as numbers -/

theorem append_toNat {m n : Nat} (a : BitVec m) (b : BitVec n) : (a ++ b).toNat = a.toNat * 2 ^ n + b.toNat := by
  rw [BitVec.toNat_append, ← Nat.shiftLeft_add_eq_or_of_lt b.isLt, Nat.shiftLeft_eq]

theorem formatNNN_toNat (op : Nibble) (nnn : Addr) : (formatNNN op nnn).toNat = op.toNat * 4096 + nnn.toNat :=
  append_toNat op nnn

theorem formatXNN_toNat (op : Nibble) (x : Reg) (nn : Byte) :
    (formatXNN op x nn).toNat = op.toNat * 4096 + x.toNat * 256 + nn.toNat := by
  have h1 : (formatXNN op x nn).toNat = (op ++ x).toNat * 2 ^ 8 + nn.toNat := append_toNat _ _
  rw [h1, append_toNat]; omega

theorem formatXYN_toNat (op : Nibble) (x y : Reg) (n : Nibble) :
    (formatXYN op x y n).toNat = op.toNat * 4096 + x.toNat * 256 + y.toNat * 16 + n.toNat := by
  have h1 : (formatXYN op x y n).toNat = (op ++ x ++ y).toNat * 2 ^ 4 + n.toNat := append_toNat _ _
  rw [h1, append_toNat, append_toNat]; omega

/-! ### The fields of a format -/

@[simp] theorem opOf_formatNNN (op : Nibble) (nnn : Addr) : opOf (formatNNN op nnn) = op :=
  BitVec.eq_of_toNat_eq (by rw [opOf_toNat, formatNNN_toNat]; omega)

@[simp] theorem nnnOf_formatNNN (op : Nibble) (nnn : Addr) : nnnOf (formatNNN op nnn) = nnn :=
  BitVec.eq_of_toNat_eq (by rw [nnnOf_toNat, formatNNN_toNat]; omega)

@[simp] theorem opOf_formatXNN (op : Nibble) (x : Reg) (nn : Byte) : opOf (formatXNN op x nn) = op :=
  BitVec.eq_of_toNat_eq (by rw [opOf_toNat, formatXNN_toNat]; omega)

@[simp] theorem xOf_formatXNN (op : Nibble) (x : Reg) (nn : Byte) : xOf (formatXNN op x nn) = x :=
  BitVec.eq_of_toNat_eq (by rw [xOf_toNat, formatXNN_toNat]; omega)

@[simp] theorem nnOf_formatXNN (op : Nibble) (x : Reg) (nn : Byte) : nnOf (formatXNN op x nn) = nn :=
  BitVec.eq_of_toNat_eq (by rw [nnOf_toNat, formatXNN_toNat]; omega)

@[simp] theorem opOf_formatXYN (op : Nibble) (x y : Reg) (n : Nibble) : opOf (formatXYN op x y n) = op :=
  BitVec.eq_of_toNat_eq (by rw [opOf_toNat, formatXYN_toNat]; omega)

@[simp] theorem xOf_formatXYN (op : Nibble) (x y : Reg) (n : Nibble) : xOf (formatXYN op x y n) = x :=
  BitVec.eq_of_toNat_eq (by rw [xOf_toNat, formatXYN_toNat]; omega)

@[simp] theorem yOf_formatXYN (op : Nibble) (x y : Reg) (n : Nibble) : yOf (formatXYN op x y n) = y :=
  BitVec.eq_of_toNat_eq (by rw [yOf_toNat, formatXYN_toNat]; omega)

@[simp] theorem nOf_formatXYN (op : Nibble) (x y : Reg) (n : Nibble) : nOf (formatXYN op x y n) = n :=
  BitVec.eq_of_toNat_eq (by rw [nOf_toNat, formatXYN_toNat]; omega)

/-! ### A word from its fields -/

/-- Every word is the format `nnn` of its own fields. -/
theorem formatNNN_fields (w : Word) : formatNNN (opOf w) (nnnOf w) = w :=
  BitVec.eq_of_toNat_eq (by rw [formatNNN_toNat, opOf_toNat, nnnOf_toNat]; omega)

/-- Every word is the format `xnn` of its own fields. -/
theorem formatXNN_fields (w : Word) : formatXNN (opOf w) (xOf w) (nnOf w) = w :=
  BitVec.eq_of_toNat_eq (by rw [formatXNN_toNat, opOf_toNat, xOf_toNat, nnOf_toNat]; omega)

/-- Every word is the format `xyn` of its own fields. -/
theorem formatXYN_fields (w : Word) : formatXYN (opOf w) (xOf w) (yOf w) (nOf w) = w :=
  BitVec.eq_of_toNat_eq (by rw [formatXYN_toNat, opOf_toNat, xOf_toNat, yOf_toNat, nOf_toNat]; omega)

/-! ### The bits of a format, and the masks of the opcode table -/

theorem formatNNN_getLsbD (op : Nibble) (nnn : Addr) (k : Nat) :
    (formatNNN op nnn).getLsbD k = if k < 12 then nnn.getLsbD k else op.getLsbD (k - 12) := by
  have h : (formatNNN op nnn).getLsbD k = _ := BitVec.getLsbD_append (x := op) (y := nnn)
  exact h

theorem formatXNN_getLsbD (op : Nibble) (x : Reg) (nn : Byte) (k : Nat) :
    (formatXNN op x nn).getLsbD k =
      if k < 8 then nn.getLsbD k else if k < 12 then x.getLsbD (k - 8) else op.getLsbD (k - 12) := by
  have h : (formatXNN op x nn).getLsbD k = _ := BitVec.getLsbD_append (x := op ++ x) (y := nn)
  rw [h, BitVec.getLsbD_append]
  by_cases h1 : k < 8
  · simp [h1]
  · by_cases h2 : k < 12
    · simp [h1, h2, show k - 8 < 4 by omega]
    · simp [h1, h2, show ¬ k - 8 < 4 by omega, show k - 8 - 4 = k - 12 by omega]

/-- Mask F000 keeps the major opcode. -/
theorem and_F000 (w : Word) : w &&& 0xF000#16 = formatNNN (opOf w) 0#12 := by
  apply BitVec.eq_of_getLsbD_eq
  intro k hk
  rw [formatNNN_getLsbD, BitVec.getLsbD_and]
  simp only [opOf]
  interval_cases k <;> simp

/-- Mask F0FF keeps the major opcode and the low byte. -/
theorem and_F0FF (w : Word) : w &&& 0xF0FF#16 = formatXNN (opOf w) 0#4 (nnOf w) := by
  apply BitVec.eq_of_getLsbD_eq
  intro k hk
  rw [formatXNN_getLsbD, BitVec.getLsbD_and]
  simp only [opOf, nnOf]
  interval_cases k <;> simp

/-- Mask F00F keeps the major opcode and the low nibble. -/
theorem and_F00F (w : Word) : w &&& 0xF00F#16 = formatXNN (opOf w) 0#4 ((nOf w).setWidth 8) := by
  apply BitVec.eq_of_getLsbD_eq
  intro k hk
  rw [formatXNN_getLsbD, BitVec.getLsbD_and]
  simp only [opOf, nOf]
  interval_cases k <;> simp

/-! ### Bytes -/

/-- A word's two bytes give it back (R52). -/
@[simp] theorem wordOfBytes_hi_lo (w : Word) : wordOfBytes (hiByte w) (loByte w) = w := by
  apply BitVec.eq_of_toNat_eq
  have h1 : (wordOfBytes (hiByte w) (loByte w)).toNat = (hiByte w).toNat * 2 ^ 8 + (loByte w).toNat := append_toNat _ _
  rw [h1]
  simp only [hiByte, loByte, BitVec.extractLsb'_toNat, Nat.shiftRight_eq_div_pow]
  omega

end Sys2Proof
end

