-- ==== Sys2Proof/Laws/State.lean ====
section
/-! SUPPORT. One lemma per field per update, and what each update leaves of the reads (a register, a byte of memory, a pixel,
the stack's depth). -/

namespace Sys2Proof.Machine

variable (s : State)

/-! ### setV -/

@[simp] theorem State.setV_cfg (r : Reg) (b : Byte) : (s.setV r b).cfg = s.cfg := rfl
@[simp] theorem State.setV_mem (r : Reg) (b : Byte) : (s.setV r b).mem = s.mem := rfl
@[simp] theorem State.setV_v (r : Reg) (b : Byte) : (s.setV r b).v = s.v.set r.toNat b r.isLt := rfl
@[simp] theorem State.setV_i (r : Reg) (b : Byte) : (s.setV r b).i = s.i := rfl
@[simp] theorem State.setV_pc (r : Reg) (b : Byte) : (s.setV r b).pc = s.pc := rfl
@[simp] theorem State.setV_stack (r : Reg) (b : Byte) : (s.setV r b).stack = s.stack := rfl
@[simp] theorem State.setV_delay (r : Reg) (b : Byte) : (s.setV r b).delay = s.delay := rfl
@[simp] theorem State.setV_sound (r : Reg) (b : Byte) : (s.setV r b).sound = s.sound := rfl
@[simp] theorem State.setV_keys (r : Reg) (b : Byte) : (s.setV r b).keys = s.keys := rfl
@[simp] theorem State.setV_mode (r : Reg) (b : Byte) : (s.setV r b).mode = s.mode := rfl
@[simp] theorem State.setV_waitReg (r : Reg) (b : Byte) : (s.setV r b).waitReg = s.waitReg := rfl
@[simp] theorem State.setV_display (r : Reg) (b : Byte) : (s.setV r b).display = s.display := rfl
@[simp] theorem State.setV_halt (r : Reg) (b : Byte) : (s.setV r b).halt = s.halt := rfl
@[simp] theorem State.setV_diag (r : Reg) (b : Byte) : (s.setV r b).diag = s.diag := rfl
@[simp] theorem State.setV_draws (r : Reg) (b : Byte) : (s.setV r b).draws = s.draws := rfl
@[simp] theorem State.setV_memRead (r : Reg) (b : Byte) (c : Nat) : (s.setV r b).memRead c = s.memRead c := rfl
@[simp] theorem State.setV_pixel (r : Reg) (b : Byte) (px py : Nat) : (s.setV r b).pixel px py = s.pixel px py := rfl
@[simp] theorem State.setV_sp (r : Reg) (b : Byte) : (s.setV r b).sp = s.sp := rfl

/-! ### setI -/

@[simp] theorem State.setI_cfg (w : Word) : (s.setI w).cfg = s.cfg := rfl
@[simp] theorem State.setI_mem (w : Word) : (s.setI w).mem = s.mem := rfl
@[simp] theorem State.setI_v (w : Word) : (s.setI w).v = s.v := rfl
@[simp] theorem State.setI_i (w : Word) : (s.setI w).i = w := rfl
@[simp] theorem State.setI_pc (w : Word) : (s.setI w).pc = s.pc := rfl
@[simp] theorem State.setI_stack (w : Word) : (s.setI w).stack = s.stack := rfl
@[simp] theorem State.setI_delay (w : Word) : (s.setI w).delay = s.delay := rfl
@[simp] theorem State.setI_sound (w : Word) : (s.setI w).sound = s.sound := rfl
@[simp] theorem State.setI_keys (w : Word) : (s.setI w).keys = s.keys := rfl
@[simp] theorem State.setI_mode (w : Word) : (s.setI w).mode = s.mode := rfl
@[simp] theorem State.setI_waitReg (w : Word) : (s.setI w).waitReg = s.waitReg := rfl
@[simp] theorem State.setI_display (w : Word) : (s.setI w).display = s.display := rfl
@[simp] theorem State.setI_halt (w : Word) : (s.setI w).halt = s.halt := rfl
@[simp] theorem State.setI_diag (w : Word) : (s.setI w).diag = s.diag := rfl
@[simp] theorem State.setI_draws (w : Word) : (s.setI w).draws = s.draws := rfl
@[simp] theorem State.setI_getV (w : Word) (q : Reg) : (s.setI w).getV q = s.getV q := rfl
@[simp] theorem State.setI_memRead (w : Word) (c : Nat) : (s.setI w).memRead c = s.memRead c := rfl
@[simp] theorem State.setI_pixel (w : Word) (px py : Nat) : (s.setI w).pixel px py = s.pixel px py := rfl
@[simp] theorem State.setI_sp (w : Word) : (s.setI w).sp = s.sp := rfl

/-! ### setPc -/

@[simp] theorem State.setPc_cfg (w : Word) : (s.setPc w).cfg = s.cfg := rfl
@[simp] theorem State.setPc_mem (w : Word) : (s.setPc w).mem = s.mem := rfl
@[simp] theorem State.setPc_v (w : Word) : (s.setPc w).v = s.v := rfl
@[simp] theorem State.setPc_i (w : Word) : (s.setPc w).i = s.i := rfl
@[simp] theorem State.setPc_pc (w : Word) : (s.setPc w).pc = w := rfl
@[simp] theorem State.setPc_stack (w : Word) : (s.setPc w).stack = s.stack := rfl
@[simp] theorem State.setPc_delay (w : Word) : (s.setPc w).delay = s.delay := rfl
@[simp] theorem State.setPc_sound (w : Word) : (s.setPc w).sound = s.sound := rfl
@[simp] theorem State.setPc_keys (w : Word) : (s.setPc w).keys = s.keys := rfl
@[simp] theorem State.setPc_mode (w : Word) : (s.setPc w).mode = s.mode := rfl
@[simp] theorem State.setPc_waitReg (w : Word) : (s.setPc w).waitReg = s.waitReg := rfl
@[simp] theorem State.setPc_display (w : Word) : (s.setPc w).display = s.display := rfl
@[simp] theorem State.setPc_halt (w : Word) : (s.setPc w).halt = s.halt := rfl
@[simp] theorem State.setPc_diag (w : Word) : (s.setPc w).diag = s.diag := rfl
@[simp] theorem State.setPc_draws (w : Word) : (s.setPc w).draws = s.draws := rfl
@[simp] theorem State.setPc_getV (w : Word) (q : Reg) : (s.setPc w).getV q = s.getV q := rfl
@[simp] theorem State.setPc_memRead (w : Word) (c : Nat) : (s.setPc w).memRead c = s.memRead c := rfl
@[simp] theorem State.setPc_pixel (w : Word) (px py : Nat) : (s.setPc w).pixel px py = s.pixel px py := rfl
@[simp] theorem State.setPc_sp (w : Word) : (s.setPc w).sp = s.sp := rfl

/-! ### setMem -/

@[simp] theorem State.setMem_cfg (m : Memory) : (s.setMem m).cfg = s.cfg := rfl
@[simp] theorem State.setMem_mem (m : Memory) : (s.setMem m).mem = m := rfl
@[simp] theorem State.setMem_v (m : Memory) : (s.setMem m).v = s.v := rfl
@[simp] theorem State.setMem_i (m : Memory) : (s.setMem m).i = s.i := rfl
@[simp] theorem State.setMem_pc (m : Memory) : (s.setMem m).pc = s.pc := rfl
@[simp] theorem State.setMem_stack (m : Memory) : (s.setMem m).stack = s.stack := rfl
@[simp] theorem State.setMem_delay (m : Memory) : (s.setMem m).delay = s.delay := rfl
@[simp] theorem State.setMem_sound (m : Memory) : (s.setMem m).sound = s.sound := rfl
@[simp] theorem State.setMem_keys (m : Memory) : (s.setMem m).keys = s.keys := rfl
@[simp] theorem State.setMem_mode (m : Memory) : (s.setMem m).mode = s.mode := rfl
@[simp] theorem State.setMem_waitReg (m : Memory) : (s.setMem m).waitReg = s.waitReg := rfl
@[simp] theorem State.setMem_display (m : Memory) : (s.setMem m).display = s.display := rfl
@[simp] theorem State.setMem_halt (m : Memory) : (s.setMem m).halt = s.halt := rfl
@[simp] theorem State.setMem_diag (m : Memory) : (s.setMem m).diag = s.diag := rfl
@[simp] theorem State.setMem_draws (m : Memory) : (s.setMem m).draws = s.draws := rfl
@[simp] theorem State.setMem_getV (m : Memory) (q : Reg) : (s.setMem m).getV q = s.getV q := rfl
@[simp] theorem State.setMem_pixel (m : Memory) (px py : Nat) : (s.setMem m).pixel px py = s.pixel px py := rfl
@[simp] theorem State.setMem_sp (m : Memory) : (s.setMem m).sp = s.sp := rfl

/-! ### setStack -/

@[simp] theorem State.setStack_cfg (l : List Word) : (s.setStack l).cfg = s.cfg := rfl
@[simp] theorem State.setStack_mem (l : List Word) : (s.setStack l).mem = s.mem := rfl
@[simp] theorem State.setStack_v (l : List Word) : (s.setStack l).v = s.v := rfl
@[simp] theorem State.setStack_i (l : List Word) : (s.setStack l).i = s.i := rfl
@[simp] theorem State.setStack_pc (l : List Word) : (s.setStack l).pc = s.pc := rfl
@[simp] theorem State.setStack_stack (l : List Word) : (s.setStack l).stack = l := rfl
@[simp] theorem State.setStack_delay (l : List Word) : (s.setStack l).delay = s.delay := rfl
@[simp] theorem State.setStack_sound (l : List Word) : (s.setStack l).sound = s.sound := rfl
@[simp] theorem State.setStack_keys (l : List Word) : (s.setStack l).keys = s.keys := rfl
@[simp] theorem State.setStack_mode (l : List Word) : (s.setStack l).mode = s.mode := rfl
@[simp] theorem State.setStack_waitReg (l : List Word) : (s.setStack l).waitReg = s.waitReg := rfl
@[simp] theorem State.setStack_display (l : List Word) : (s.setStack l).display = s.display := rfl
@[simp] theorem State.setStack_halt (l : List Word) : (s.setStack l).halt = s.halt := rfl
@[simp] theorem State.setStack_diag (l : List Word) : (s.setStack l).diag = s.diag := rfl
@[simp] theorem State.setStack_draws (l : List Word) : (s.setStack l).draws = s.draws := rfl
@[simp] theorem State.setStack_getV (l : List Word) (q : Reg) : (s.setStack l).getV q = s.getV q := rfl
@[simp] theorem State.setStack_memRead (l : List Word) (c : Nat) : (s.setStack l).memRead c = s.memRead c := rfl
@[simp] theorem State.setStack_pixel (l : List Word) (px py : Nat) : (s.setStack l).pixel px py = s.pixel px py := rfl

/-! ### setDelay -/

@[simp] theorem State.setDelay_cfg (b : Byte) : (s.setDelay b).cfg = s.cfg := rfl
@[simp] theorem State.setDelay_mem (b : Byte) : (s.setDelay b).mem = s.mem := rfl
@[simp] theorem State.setDelay_v (b : Byte) : (s.setDelay b).v = s.v := rfl
@[simp] theorem State.setDelay_i (b : Byte) : (s.setDelay b).i = s.i := rfl
@[simp] theorem State.setDelay_pc (b : Byte) : (s.setDelay b).pc = s.pc := rfl
@[simp] theorem State.setDelay_stack (b : Byte) : (s.setDelay b).stack = s.stack := rfl
@[simp] theorem State.setDelay_delay (b : Byte) : (s.setDelay b).delay = b := rfl
@[simp] theorem State.setDelay_sound (b : Byte) : (s.setDelay b).sound = s.sound := rfl
@[simp] theorem State.setDelay_keys (b : Byte) : (s.setDelay b).keys = s.keys := rfl
@[simp] theorem State.setDelay_mode (b : Byte) : (s.setDelay b).mode = s.mode := rfl
@[simp] theorem State.setDelay_waitReg (b : Byte) : (s.setDelay b).waitReg = s.waitReg := rfl
@[simp] theorem State.setDelay_display (b : Byte) : (s.setDelay b).display = s.display := rfl
@[simp] theorem State.setDelay_halt (b : Byte) : (s.setDelay b).halt = s.halt := rfl
@[simp] theorem State.setDelay_diag (b : Byte) : (s.setDelay b).diag = s.diag := rfl
@[simp] theorem State.setDelay_draws (b : Byte) : (s.setDelay b).draws = s.draws := rfl
@[simp] theorem State.setDelay_getV (b : Byte) (q : Reg) : (s.setDelay b).getV q = s.getV q := rfl
@[simp] theorem State.setDelay_memRead (b : Byte) (c : Nat) : (s.setDelay b).memRead c = s.memRead c := rfl
@[simp] theorem State.setDelay_pixel (b : Byte) (px py : Nat) : (s.setDelay b).pixel px py = s.pixel px py := rfl
@[simp] theorem State.setDelay_sp (b : Byte) : (s.setDelay b).sp = s.sp := rfl

/-! ### setSound -/

@[simp] theorem State.setSound_cfg (b : Byte) : (s.setSound b).cfg = s.cfg := rfl
@[simp] theorem State.setSound_mem (b : Byte) : (s.setSound b).mem = s.mem := rfl
@[simp] theorem State.setSound_v (b : Byte) : (s.setSound b).v = s.v := rfl
@[simp] theorem State.setSound_i (b : Byte) : (s.setSound b).i = s.i := rfl
@[simp] theorem State.setSound_pc (b : Byte) : (s.setSound b).pc = s.pc := rfl
@[simp] theorem State.setSound_stack (b : Byte) : (s.setSound b).stack = s.stack := rfl
@[simp] theorem State.setSound_delay (b : Byte) : (s.setSound b).delay = s.delay := rfl
@[simp] theorem State.setSound_sound (b : Byte) : (s.setSound b).sound = b := rfl
@[simp] theorem State.setSound_keys (b : Byte) : (s.setSound b).keys = s.keys := rfl
@[simp] theorem State.setSound_mode (b : Byte) : (s.setSound b).mode = s.mode := rfl
@[simp] theorem State.setSound_waitReg (b : Byte) : (s.setSound b).waitReg = s.waitReg := rfl
@[simp] theorem State.setSound_display (b : Byte) : (s.setSound b).display = s.display := rfl
@[simp] theorem State.setSound_halt (b : Byte) : (s.setSound b).halt = s.halt := rfl
@[simp] theorem State.setSound_diag (b : Byte) : (s.setSound b).diag = s.diag := rfl
@[simp] theorem State.setSound_draws (b : Byte) : (s.setSound b).draws = s.draws := rfl
@[simp] theorem State.setSound_getV (b : Byte) (q : Reg) : (s.setSound b).getV q = s.getV q := rfl
@[simp] theorem State.setSound_memRead (b : Byte) (c : Nat) : (s.setSound b).memRead c = s.memRead c := rfl
@[simp] theorem State.setSound_pixel (b : Byte) (px py : Nat) : (s.setSound b).pixel px py = s.pixel px py := rfl
@[simp] theorem State.setSound_sp (b : Byte) : (s.setSound b).sp = s.sp := rfl

/-! ### setKeyBit -/

@[simp] theorem State.setKeyBit_cfg (k : Fin 16) (p : Bool) : (s.setKeyBit k p).cfg = s.cfg := rfl
@[simp] theorem State.setKeyBit_mem (k : Fin 16) (p : Bool) : (s.setKeyBit k p).mem = s.mem := rfl
@[simp] theorem State.setKeyBit_v (k : Fin 16) (p : Bool) : (s.setKeyBit k p).v = s.v := rfl
@[simp] theorem State.setKeyBit_i (k : Fin 16) (p : Bool) : (s.setKeyBit k p).i = s.i := rfl
@[simp] theorem State.setKeyBit_pc (k : Fin 16) (p : Bool) : (s.setKeyBit k p).pc = s.pc := rfl
@[simp] theorem State.setKeyBit_stack (k : Fin 16) (p : Bool) : (s.setKeyBit k p).stack = s.stack := rfl
@[simp] theorem State.setKeyBit_delay (k : Fin 16) (p : Bool) : (s.setKeyBit k p).delay = s.delay := rfl
@[simp] theorem State.setKeyBit_sound (k : Fin 16) (p : Bool) : (s.setKeyBit k p).sound = s.sound := rfl
@[simp] theorem State.setKeyBit_keys (k : Fin 16) (p : Bool) : (s.setKeyBit k p).keys = s.keys.set k.val p k.isLt := rfl
@[simp] theorem State.setKeyBit_mode (k : Fin 16) (p : Bool) : (s.setKeyBit k p).mode = s.mode := rfl
@[simp] theorem State.setKeyBit_waitReg (k : Fin 16) (p : Bool) : (s.setKeyBit k p).waitReg = s.waitReg := rfl
@[simp] theorem State.setKeyBit_display (k : Fin 16) (p : Bool) : (s.setKeyBit k p).display = s.display := rfl
@[simp] theorem State.setKeyBit_halt (k : Fin 16) (p : Bool) : (s.setKeyBit k p).halt = s.halt := rfl
@[simp] theorem State.setKeyBit_diag (k : Fin 16) (p : Bool) : (s.setKeyBit k p).diag = s.diag := rfl
@[simp] theorem State.setKeyBit_draws (k : Fin 16) (p : Bool) : (s.setKeyBit k p).draws = s.draws := rfl
@[simp] theorem State.setKeyBit_getV (k : Fin 16) (p : Bool) (q : Reg) : (s.setKeyBit k p).getV q = s.getV q := rfl
@[simp] theorem State.setKeyBit_memRead (k : Fin 16) (p : Bool) (c : Nat) : (s.setKeyBit k p).memRead c = s.memRead c := rfl
@[simp] theorem State.setKeyBit_pixel (k : Fin 16) (p : Bool) (px py : Nat) : (s.setKeyBit k p).pixel px py = s.pixel px py := rfl
@[simp] theorem State.setKeyBit_sp (k : Fin 16) (p : Bool) : (s.setKeyBit k p).sp = s.sp := rfl

/-! ### setMode -/

@[simp] theorem State.setMode_cfg (m : Mode) : (s.setMode m).cfg = s.cfg := rfl
@[simp] theorem State.setMode_mem (m : Mode) : (s.setMode m).mem = s.mem := rfl
@[simp] theorem State.setMode_v (m : Mode) : (s.setMode m).v = s.v := rfl
@[simp] theorem State.setMode_i (m : Mode) : (s.setMode m).i = s.i := rfl
@[simp] theorem State.setMode_pc (m : Mode) : (s.setMode m).pc = s.pc := rfl
@[simp] theorem State.setMode_stack (m : Mode) : (s.setMode m).stack = s.stack := rfl
@[simp] theorem State.setMode_delay (m : Mode) : (s.setMode m).delay = s.delay := rfl
@[simp] theorem State.setMode_sound (m : Mode) : (s.setMode m).sound = s.sound := rfl
@[simp] theorem State.setMode_keys (m : Mode) : (s.setMode m).keys = s.keys := rfl
@[simp] theorem State.setMode_mode (m : Mode) : (s.setMode m).mode = m := rfl
@[simp] theorem State.setMode_waitReg (m : Mode) : (s.setMode m).waitReg = s.waitReg := rfl
@[simp] theorem State.setMode_display (m : Mode) : (s.setMode m).display = s.display := rfl
@[simp] theorem State.setMode_halt (m : Mode) : (s.setMode m).halt = s.halt := rfl
@[simp] theorem State.setMode_diag (m : Mode) : (s.setMode m).diag = s.diag := rfl
@[simp] theorem State.setMode_draws (m : Mode) : (s.setMode m).draws = s.draws := rfl
@[simp] theorem State.setMode_getV (m : Mode) (q : Reg) : (s.setMode m).getV q = s.getV q := rfl
@[simp] theorem State.setMode_memRead (m : Mode) (c : Nat) : (s.setMode m).memRead c = s.memRead c := rfl
@[simp] theorem State.setMode_pixel (m : Mode) (px py : Nat) : (s.setMode m).pixel px py = s.pixel px py := rfl
@[simp] theorem State.setMode_sp (m : Mode) : (s.setMode m).sp = s.sp := rfl

/-! ### setWaitReg -/

@[simp] theorem State.setWaitReg_cfg (r : Reg) : (s.setWaitReg r).cfg = s.cfg := rfl
@[simp] theorem State.setWaitReg_mem (r : Reg) : (s.setWaitReg r).mem = s.mem := rfl
@[simp] theorem State.setWaitReg_v (r : Reg) : (s.setWaitReg r).v = s.v := rfl
@[simp] theorem State.setWaitReg_i (r : Reg) : (s.setWaitReg r).i = s.i := rfl
@[simp] theorem State.setWaitReg_pc (r : Reg) : (s.setWaitReg r).pc = s.pc := rfl
@[simp] theorem State.setWaitReg_stack (r : Reg) : (s.setWaitReg r).stack = s.stack := rfl
@[simp] theorem State.setWaitReg_delay (r : Reg) : (s.setWaitReg r).delay = s.delay := rfl
@[simp] theorem State.setWaitReg_sound (r : Reg) : (s.setWaitReg r).sound = s.sound := rfl
@[simp] theorem State.setWaitReg_keys (r : Reg) : (s.setWaitReg r).keys = s.keys := rfl
@[simp] theorem State.setWaitReg_mode (r : Reg) : (s.setWaitReg r).mode = s.mode := rfl
@[simp] theorem State.setWaitReg_waitReg (r : Reg) : (s.setWaitReg r).waitReg = r := rfl
@[simp] theorem State.setWaitReg_display (r : Reg) : (s.setWaitReg r).display = s.display := rfl
@[simp] theorem State.setWaitReg_halt (r : Reg) : (s.setWaitReg r).halt = s.halt := rfl
@[simp] theorem State.setWaitReg_diag (r : Reg) : (s.setWaitReg r).diag = s.diag := rfl
@[simp] theorem State.setWaitReg_draws (r : Reg) : (s.setWaitReg r).draws = s.draws := rfl
@[simp] theorem State.setWaitReg_getV (r : Reg) (q : Reg) : (s.setWaitReg r).getV q = s.getV q := rfl
@[simp] theorem State.setWaitReg_memRead (r : Reg) (c : Nat) : (s.setWaitReg r).memRead c = s.memRead c := rfl
@[simp] theorem State.setWaitReg_pixel (r : Reg) (px py : Nat) : (s.setWaitReg r).pixel px py = s.pixel px py := rfl
@[simp] theorem State.setWaitReg_sp (r : Reg) : (s.setWaitReg r).sp = s.sp := rfl

/-! ### setDisplay -/

@[simp] theorem State.setDisplay_cfg (d : Bitmap) : (s.setDisplay d).cfg = s.cfg := rfl
@[simp] theorem State.setDisplay_mem (d : Bitmap) : (s.setDisplay d).mem = s.mem := rfl
@[simp] theorem State.setDisplay_v (d : Bitmap) : (s.setDisplay d).v = s.v := rfl
@[simp] theorem State.setDisplay_i (d : Bitmap) : (s.setDisplay d).i = s.i := rfl
@[simp] theorem State.setDisplay_pc (d : Bitmap) : (s.setDisplay d).pc = s.pc := rfl
@[simp] theorem State.setDisplay_stack (d : Bitmap) : (s.setDisplay d).stack = s.stack := rfl
@[simp] theorem State.setDisplay_delay (d : Bitmap) : (s.setDisplay d).delay = s.delay := rfl
@[simp] theorem State.setDisplay_sound (d : Bitmap) : (s.setDisplay d).sound = s.sound := rfl
@[simp] theorem State.setDisplay_keys (d : Bitmap) : (s.setDisplay d).keys = s.keys := rfl
@[simp] theorem State.setDisplay_mode (d : Bitmap) : (s.setDisplay d).mode = s.mode := rfl
@[simp] theorem State.setDisplay_waitReg (d : Bitmap) : (s.setDisplay d).waitReg = s.waitReg := rfl
@[simp] theorem State.setDisplay_display (d : Bitmap) : (s.setDisplay d).display = d := rfl
@[simp] theorem State.setDisplay_halt (d : Bitmap) : (s.setDisplay d).halt = s.halt := rfl
@[simp] theorem State.setDisplay_diag (d : Bitmap) : (s.setDisplay d).diag = s.diag := rfl
@[simp] theorem State.setDisplay_draws (d : Bitmap) : (s.setDisplay d).draws = s.draws := rfl
@[simp] theorem State.setDisplay_getV (d : Bitmap) (q : Reg) : (s.setDisplay d).getV q = s.getV q := rfl
@[simp] theorem State.setDisplay_memRead (d : Bitmap) (c : Nat) : (s.setDisplay d).memRead c = s.memRead c := rfl
@[simp] theorem State.setDisplay_sp (d : Bitmap) : (s.setDisplay d).sp = s.sp := rfl

/-! ### setHalt -/

@[simp] theorem State.setHalt_cfg (h : Option HaltRecord) : (s.setHalt h).cfg = s.cfg := rfl
@[simp] theorem State.setHalt_mem (h : Option HaltRecord) : (s.setHalt h).mem = s.mem := rfl
@[simp] theorem State.setHalt_v (h : Option HaltRecord) : (s.setHalt h).v = s.v := rfl
@[simp] theorem State.setHalt_i (h : Option HaltRecord) : (s.setHalt h).i = s.i := rfl
@[simp] theorem State.setHalt_pc (h : Option HaltRecord) : (s.setHalt h).pc = s.pc := rfl
@[simp] theorem State.setHalt_stack (h : Option HaltRecord) : (s.setHalt h).stack = s.stack := rfl
@[simp] theorem State.setHalt_delay (h : Option HaltRecord) : (s.setHalt h).delay = s.delay := rfl
@[simp] theorem State.setHalt_sound (h : Option HaltRecord) : (s.setHalt h).sound = s.sound := rfl
@[simp] theorem State.setHalt_keys (h : Option HaltRecord) : (s.setHalt h).keys = s.keys := rfl
@[simp] theorem State.setHalt_mode (h : Option HaltRecord) : (s.setHalt h).mode = s.mode := rfl
@[simp] theorem State.setHalt_waitReg (h : Option HaltRecord) : (s.setHalt h).waitReg = s.waitReg := rfl
@[simp] theorem State.setHalt_display (h : Option HaltRecord) : (s.setHalt h).display = s.display := rfl
@[simp] theorem State.setHalt_halt (h : Option HaltRecord) : (s.setHalt h).halt = h := rfl
@[simp] theorem State.setHalt_diag (h : Option HaltRecord) : (s.setHalt h).diag = s.diag := rfl
@[simp] theorem State.setHalt_draws (h : Option HaltRecord) : (s.setHalt h).draws = s.draws := rfl
@[simp] theorem State.setHalt_getV (h : Option HaltRecord) (q : Reg) : (s.setHalt h).getV q = s.getV q := rfl
@[simp] theorem State.setHalt_memRead (h : Option HaltRecord) (c : Nat) : (s.setHalt h).memRead c = s.memRead c := rfl
@[simp] theorem State.setHalt_pixel (h : Option HaltRecord) (px py : Nat) : (s.setHalt h).pixel px py = s.pixel px py := rfl
@[simp] theorem State.setHalt_sp (h : Option HaltRecord) : (s.setHalt h).sp = s.sp := rfl

/-! ### setDiag -/

@[simp] theorem State.setDiag_cfg (l : List Diagnostic) : (s.setDiag l).cfg = s.cfg := rfl
@[simp] theorem State.setDiag_mem (l : List Diagnostic) : (s.setDiag l).mem = s.mem := rfl
@[simp] theorem State.setDiag_v (l : List Diagnostic) : (s.setDiag l).v = s.v := rfl
@[simp] theorem State.setDiag_i (l : List Diagnostic) : (s.setDiag l).i = s.i := rfl
@[simp] theorem State.setDiag_pc (l : List Diagnostic) : (s.setDiag l).pc = s.pc := rfl
@[simp] theorem State.setDiag_stack (l : List Diagnostic) : (s.setDiag l).stack = s.stack := rfl
@[simp] theorem State.setDiag_delay (l : List Diagnostic) : (s.setDiag l).delay = s.delay := rfl
@[simp] theorem State.setDiag_sound (l : List Diagnostic) : (s.setDiag l).sound = s.sound := rfl
@[simp] theorem State.setDiag_keys (l : List Diagnostic) : (s.setDiag l).keys = s.keys := rfl
@[simp] theorem State.setDiag_mode (l : List Diagnostic) : (s.setDiag l).mode = s.mode := rfl
@[simp] theorem State.setDiag_waitReg (l : List Diagnostic) : (s.setDiag l).waitReg = s.waitReg := rfl
@[simp] theorem State.setDiag_display (l : List Diagnostic) : (s.setDiag l).display = s.display := rfl
@[simp] theorem State.setDiag_halt (l : List Diagnostic) : (s.setDiag l).halt = s.halt := rfl
@[simp] theorem State.setDiag_diag (l : List Diagnostic) : (s.setDiag l).diag = l := rfl
@[simp] theorem State.setDiag_draws (l : List Diagnostic) : (s.setDiag l).draws = s.draws := rfl
@[simp] theorem State.setDiag_getV (l : List Diagnostic) (q : Reg) : (s.setDiag l).getV q = s.getV q := rfl
@[simp] theorem State.setDiag_memRead (l : List Diagnostic) (c : Nat) : (s.setDiag l).memRead c = s.memRead c := rfl
@[simp] theorem State.setDiag_pixel (l : List Diagnostic) (px py : Nat) : (s.setDiag l).pixel px py = s.pixel px py := rfl
@[simp] theorem State.setDiag_sp (l : List Diagnostic) : (s.setDiag l).sp = s.sp := rfl

/-! ### setDraws -/

@[simp] theorem State.setDraws_cfg (n : Nat) : (s.setDraws n).cfg = s.cfg := rfl
@[simp] theorem State.setDraws_mem (n : Nat) : (s.setDraws n).mem = s.mem := rfl
@[simp] theorem State.setDraws_v (n : Nat) : (s.setDraws n).v = s.v := rfl
@[simp] theorem State.setDraws_i (n : Nat) : (s.setDraws n).i = s.i := rfl
@[simp] theorem State.setDraws_pc (n : Nat) : (s.setDraws n).pc = s.pc := rfl
@[simp] theorem State.setDraws_stack (n : Nat) : (s.setDraws n).stack = s.stack := rfl
@[simp] theorem State.setDraws_delay (n : Nat) : (s.setDraws n).delay = s.delay := rfl
@[simp] theorem State.setDraws_sound (n : Nat) : (s.setDraws n).sound = s.sound := rfl
@[simp] theorem State.setDraws_keys (n : Nat) : (s.setDraws n).keys = s.keys := rfl
@[simp] theorem State.setDraws_mode (n : Nat) : (s.setDraws n).mode = s.mode := rfl
@[simp] theorem State.setDraws_waitReg (n : Nat) : (s.setDraws n).waitReg = s.waitReg := rfl
@[simp] theorem State.setDraws_display (n : Nat) : (s.setDraws n).display = s.display := rfl
@[simp] theorem State.setDraws_halt (n : Nat) : (s.setDraws n).halt = s.halt := rfl
@[simp] theorem State.setDraws_diag (n : Nat) : (s.setDraws n).diag = s.diag := rfl
@[simp] theorem State.setDraws_draws (n : Nat) : (s.setDraws n).draws = n := rfl
@[simp] theorem State.setDraws_getV (n : Nat) (q : Reg) : (s.setDraws n).getV q = s.getV q := rfl
@[simp] theorem State.setDraws_memRead (n : Nat) (c : Nat) : (s.setDraws n).memRead c = s.memRead c := rfl
@[simp] theorem State.setDraws_pixel (n : Nat) (px py : Nat) : (s.setDraws n).pixel px py = s.pixel px py := rfl
@[simp] theorem State.setDraws_sp (n : Nat) : (s.setDraws n).sp = s.sp := rfl

/-! ### Reading a register after writing one -/

/-- A register reads as the value written when it is the one written, and as before otherwise. -/
theorem State.setV_getV (r q : Reg) (b : Byte) : (s.setV r b).getV q = if q = r then b else s.getV q := by
  simp only [State.getV, State.setV, Vector.getElem_set, BitVec.toNat_inj, eq_comm]

@[simp] theorem State.setV_getV_self (r : Reg) (b : Byte) : (s.setV r b).getV r = b := by
  simp [State.setV_getV]

theorem State.setV_getV_of_ne {r q : Reg} (h : q ≠ r) (b : Byte) : (s.setV r b).getV q = s.getV q := by
  simp [State.setV_getV, h]

/-- Two register files are equal when every register reads the same. -/
theorem State.v_ext {s t : State} (h : ∀ r : Reg, t.getV r = s.getV r) : t.v = s.v := by
  apply Vector.ext
  intro k hk
  have := h (BitVec.ofNat 4 k)
  simpa [State.getV, Nat.mod_eq_of_lt hk] using this

end Sys2Proof.Machine
end

