-- ==== Sys2Proof/Laws/Memory.lean ====
section
/-! SUPPORT. Memory: reading after writing, and the canonical form (log entry 4). -/

namespace Sys2Proof.Machine

/-! ### Reading after writing, on any list -/

theorem Memory.lookup_insert (a : Nat) (b : Byte) (m : Memory) (c : Nat) :
    (Memory.insert a b m).lookup c = if a = c then some b else m.lookup c := by
  induction m with
  | nil => simp [Memory.insert, Memory.lookup]
  | cons kc rest ih =>
    obtain ⟨k, x⟩ := kc
    by_cases hlt : a < k
    · simp [Memory.insert, Memory.lookup, hlt]
    · by_cases heq : a = k
      · subst heq; simp only [Memory.insert, Memory.lookup, lt_irrefl, if_false, if_true]
        split <;> rfl
      · simp only [Memory.insert, Memory.lookup, hlt, heq, if_false, ih]
        by_cases hc : a = c
        · subst hc; simp [Ne.symm heq]
        · simp [hc]

theorem Memory.lookup_erase (a : Nat) (m : Memory) (c : Nat) :
    (Memory.erase a m).lookup c = if a = c then none else m.lookup c := by
  induction m with
  | nil => simp [Memory.erase, Memory.lookup]
  | cons kc rest ih =>
    obtain ⟨k, x⟩ := kc
    by_cases hk : k = a
    · subst hk; simp only [Memory.erase, Memory.lookup, if_true, ih]
      split <;> rfl
    · simp only [Memory.erase, Memory.lookup, hk, if_false, ih]
      by_cases hc : a = c
      · subst hc; simp [hk]
      · simp [hc]

/-- A byte reads as written at its address and as before at every other. -/
theorem Memory.read_write (font : Vector Byte 80) (m : Memory) (a : Nat) (b : Byte) (c : Nat) :
    Memory.read font (Memory.write font m a b) c = if a = c then b else Memory.read font m c := by
  by_cases hb : b = resetByte font a
  · simp only [Memory.read, Memory.write, if_pos hb, Memory.lookup_erase]
    by_cases hc : a = c
    · subst hc; simp [hb]
    · simp [hc]
  · simp only [Memory.read, Memory.write, if_neg hb, Memory.lookup_insert]
    by_cases hc : a = c <;> simp [hc]

/-! ### The canonical form -/

theorem Memory.risingFrom_mono {lo lo' : Nat} (h : lo' ≤ lo) {m : Memory} (hm : m.risingFrom lo = true) :
    m.risingFrom lo' = true := by
  cases m with
  | nil => rfl
  | cons kc rest =>
    obtain ⟨k, x⟩ := kc
    simp only [Memory.risingFrom, Bool.and_eq_true, decide_eq_true_eq] at hm ⊢
    exact ⟨by omega, hm.2⟩

theorem Memory.risingFrom_erase (a lo : Nat) {m : Memory} (hm : m.risingFrom lo = true) :
    (Memory.erase a m).risingFrom lo = true := by
  induction m generalizing lo with
  | nil => rfl
  | cons kc rest ih =>
    obtain ⟨k, x⟩ := kc
    simp only [Memory.risingFrom, Bool.and_eq_true, decide_eq_true_eq] at hm
    by_cases hk : k = a
    · simp only [Memory.erase, if_pos hk]
      exact Memory.risingFrom_mono (by omega) (ih (k + 1) hm.2)
    · simp only [Memory.erase, if_neg hk, Memory.risingFrom, Bool.and_eq_true, decide_eq_true_eq]
      exact ⟨hm.1, ih (k + 1) hm.2⟩

theorem Memory.risingFrom_insert (a : Nat) (b : Byte) (lo : Nat) (ha : lo ≤ a) {m : Memory}
    (hm : m.risingFrom lo = true) : (Memory.insert a b m).risingFrom lo = true := by
  induction m generalizing lo with
  | nil => simp [Memory.insert, Memory.risingFrom, ha]
  | cons kc rest ih =>
    obtain ⟨k, x⟩ := kc
    simp only [Memory.risingFrom, Bool.and_eq_true, decide_eq_true_eq] at hm
    by_cases hlt : a < k
    · simp [Memory.insert, hlt, Memory.risingFrom, ha, hm.2]
    · by_cases heq : a = k
      · subst heq; simp [Memory.insert, Memory.risingFrom, ha, hm.2]
      · simp only [Memory.insert, if_neg hlt, if_neg heq, Memory.risingFrom, Bool.and_eq_true, decide_eq_true_eq]
        exact ⟨hm.1, ih (k + 1) (by omega) hm.2⟩

theorem Memory.mem_erase {a : Nat} {m : Memory} {c : Host.Cell} (h : c ∈ Memory.erase a m) : c ∈ m := by
  induction m with
  | nil => exact h
  | cons kc rest ih =>
    obtain ⟨k, x⟩ := kc
    by_cases hk : k = a
    · exact List.mem_cons_of_mem _ (ih (by simpa [Memory.erase, hk] using h))
    · simp only [Memory.erase, if_neg hk, List.mem_cons] at h
      rcases h with h | h
      · simp [h]
      · exact List.mem_cons_of_mem _ (ih h)

theorem Memory.mem_insert {a : Nat} {b : Byte} {m : Memory} {c : Host.Cell} (h : c ∈ Memory.insert a b m) :
    c = (a, b) ∨ c ∈ m := by
  induction m with
  | nil => simpa [Memory.insert] using h
  | cons kc rest ih =>
    obtain ⟨k, x⟩ := kc
    by_cases hlt : a < k
    · simpa [Memory.insert, hlt] using h
    · by_cases heq : a = k
      · simp only [Memory.insert, if_neg hlt, if_pos heq, List.mem_cons] at h
        rcases h with h | h
        · exact .inl h
        · exact .inr (List.mem_cons_of_mem _ h)
      · simp only [Memory.insert, if_neg hlt, if_neg heq, List.mem_cons] at h
        rcases h with h | h
        · exact .inr (by simp [h])
        · exact (ih h).imp id (List.mem_cons_of_mem _)

/-- What the canonical form says, as propositions. -/
theorem Memory.wf_iff {font : Vector Byte 80} {m : Memory} :
    Memory.wf font m = true ↔
      m.risingFrom 0 = true ∧ ∀ c ∈ m, c.1 < Config.memSize ∧ c.2 ≠ resetByte font c.1 := by
  simp [Memory.wf, List.all_eq_true]

/-- Nothing listed is canonical: the memory of the power-on state. -/
theorem Memory.wf_nil (font : Vector Byte 80) : Memory.wf font [] = true := rfl

/-- A write keeps the canonical form. -/
theorem Memory.wf_write {font : Vector Byte 80} {m : Memory} (hm : Memory.wf font m = true) {a : Nat}
    (ha : a < Config.memSize) (b : Byte) : Memory.wf font (Memory.write font m a b) = true := by
  rw [Memory.wf_iff] at hm ⊢
  by_cases hb : b = resetByte font a
  · simp only [Memory.write, if_pos hb]
    exact ⟨Memory.risingFrom_erase a 0 hm.1, fun c hc => hm.2 c (Memory.mem_erase hc)⟩
  · simp only [Memory.write, if_neg hb]
    refine ⟨Memory.risingFrom_insert a b 0 (Nat.zero_le a) hm.1, fun c hc => ?_⟩
    rcases Memory.mem_insert hc with rfl | h
    · exact ⟨ha, hb⟩
    · exact hm.2 c h

/-! ### The reset contents (R56) -/

/-- The font region reads as FONT. -/
theorem resetByte_font (font : Vector Byte 80) {k : Nat} (hk : k < 80) : resetByte font (0x050 + k) = font[k] := by
  have h : Config.fontBase ≤ 0x050 + k ∧ 0x050 + k < Config.fontBase + 80 := by simp only [Config.fontBase]; omega
  rw [resetByte, dif_pos h]
  simp [Config.fontBase]

/-- Outside the font region memory is zero. -/
theorem resetByte_outside (font : Vector Byte 80) {a : Nat} (ha : a < 0x050 ∨ 0x0A0 ≤ a) : resetByte font a = 0#8 := by
  have h : ¬ (Config.fontBase ≤ a ∧ a < Config.fontBase + 80) := by simp only [Config.fontBase]; omega
  rw [resetByte, dif_neg h]

/-! ### The state's accesses (R51) -/

theorem maskAddr_lt (a : Nat) : maskAddr a < Config.memSize := Nat.mod_lt _ (by decide)

@[simp] theorem maskAddr_mod (a : Nat) : maskAddr (a % 4096) = maskAddr a := by
  simp [maskAddr, Config.memSize]

@[simp] theorem State.memRead_mod (s : State) (a : Nat) : s.memRead (a % 4096) = s.memRead a := by
  simp [State.memRead]

/-- A store at `a` changes the byte at `a mod 4096` and no other. -/
theorem State.memWrite_memRead (s : State) (a : Nat) (b : Byte) (c : Nat) :
    (s.memWrite a b).memRead c = if a % 4096 = c % 4096 then b else s.memRead c := by
  simp only [State.memRead, State.memWrite, State.setMem_cfg, State.setMem_mem, Memory.read_write, maskAddr, Config.memSize]

/-- A store keeps the canonical form. -/
theorem State.memWrite_wf {s : State} (h : Memory.wf s.cfg.font s.mem = true) (a : Nat) (b : Byte) :
    Memory.wf (s.memWrite a b).cfg.font (s.memWrite a b).mem = true :=
  Memory.wf_write h (maskAddr_lt a) b

end Sys2Proof.Machine
end

