-- ==== Sys2Proof/Laws/Ops.lean ====
section
/-! SUPPORT. What each shared operation does, once: block stores and loads, the call stack, skips, raising an error. -/

namespace Sys2Proof.Machine

variable (s : State)

/-! ### memWrite -/

/-- A store changes the memory and nothing else. -/
theorem State.memWrite_eq (a : Nat) (b : Byte) : s.memWrite a b = s.setMem (s.memWrite a b).mem := rfl

@[simp] theorem State.memWrite_cfg (a : Nat) (b : Byte) : (s.memWrite a b).cfg = s.cfg := (congrArg State.cfg (State.memWrite_eq s a b)).trans rfl
@[simp] theorem State.memWrite_v (a : Nat) (b : Byte) : (s.memWrite a b).v = s.v := (congrArg State.v (State.memWrite_eq s a b)).trans rfl
@[simp] theorem State.memWrite_i (a : Nat) (b : Byte) : (s.memWrite a b).i = s.i := (congrArg State.i (State.memWrite_eq s a b)).trans rfl
@[simp] theorem State.memWrite_pc (a : Nat) (b : Byte) : (s.memWrite a b).pc = s.pc := (congrArg State.pc (State.memWrite_eq s a b)).trans rfl
@[simp] theorem State.memWrite_stack (a : Nat) (b : Byte) : (s.memWrite a b).stack = s.stack := (congrArg State.stack (State.memWrite_eq s a b)).trans rfl
@[simp] theorem State.memWrite_delay (a : Nat) (b : Byte) : (s.memWrite a b).delay = s.delay := (congrArg State.delay (State.memWrite_eq s a b)).trans rfl
@[simp] theorem State.memWrite_sound (a : Nat) (b : Byte) : (s.memWrite a b).sound = s.sound := (congrArg State.sound (State.memWrite_eq s a b)).trans rfl
@[simp] theorem State.memWrite_keys (a : Nat) (b : Byte) : (s.memWrite a b).keys = s.keys := (congrArg State.keys (State.memWrite_eq s a b)).trans rfl
@[simp] theorem State.memWrite_mode (a : Nat) (b : Byte) : (s.memWrite a b).mode = s.mode := (congrArg State.mode (State.memWrite_eq s a b)).trans rfl
@[simp] theorem State.memWrite_waitReg (a : Nat) (b : Byte) : (s.memWrite a b).waitReg = s.waitReg := (congrArg State.waitReg (State.memWrite_eq s a b)).trans rfl
@[simp] theorem State.memWrite_display (a : Nat) (b : Byte) : (s.memWrite a b).display = s.display := (congrArg State.display (State.memWrite_eq s a b)).trans rfl
@[simp] theorem State.memWrite_halt (a : Nat) (b : Byte) : (s.memWrite a b).halt = s.halt := (congrArg State.halt (State.memWrite_eq s a b)).trans rfl
@[simp] theorem State.memWrite_diag (a : Nat) (b : Byte) : (s.memWrite a b).diag = s.diag := (congrArg State.diag (State.memWrite_eq s a b)).trans rfl
@[simp] theorem State.memWrite_draws (a : Nat) (b : Byte) : (s.memWrite a b).draws = s.draws := (congrArg State.draws (State.memWrite_eq s a b)).trans rfl
@[simp] theorem State.memWrite_getV (a : Nat) (b : Byte) (q : Reg) : (s.memWrite a b).getV q = s.getV q := by rw [State.memWrite_eq]; rfl
@[simp] theorem State.memWrite_sp (a : Nat) (b : Byte) : (s.memWrite a b).sp = s.sp := by rw [State.memWrite_eq]; rfl

/-! ### memWriteBytes -/

/-- A run of stores changes the memory and nothing else. -/
theorem State.memWriteBytes_eq (a : Nat) (l : List Byte) :
    s.memWriteBytes a l = s.setMem (s.memWriteBytes a l).mem := by
  induction l generalizing s a with
  | nil => rfl
  | cons b l ih => exact (ih (s.memWrite a b) (a + 1)).trans rfl

@[simp] theorem State.memWriteBytes_cfg (a : Nat) (l : List Byte) : (s.memWriteBytes a l).cfg = s.cfg := (congrArg State.cfg (State.memWriteBytes_eq s a l)).trans rfl
@[simp] theorem State.memWriteBytes_v (a : Nat) (l : List Byte) : (s.memWriteBytes a l).v = s.v := (congrArg State.v (State.memWriteBytes_eq s a l)).trans rfl
@[simp] theorem State.memWriteBytes_i (a : Nat) (l : List Byte) : (s.memWriteBytes a l).i = s.i := (congrArg State.i (State.memWriteBytes_eq s a l)).trans rfl
@[simp] theorem State.memWriteBytes_pc (a : Nat) (l : List Byte) : (s.memWriteBytes a l).pc = s.pc := (congrArg State.pc (State.memWriteBytes_eq s a l)).trans rfl
@[simp] theorem State.memWriteBytes_stack (a : Nat) (l : List Byte) : (s.memWriteBytes a l).stack = s.stack := (congrArg State.stack (State.memWriteBytes_eq s a l)).trans rfl
@[simp] theorem State.memWriteBytes_delay (a : Nat) (l : List Byte) : (s.memWriteBytes a l).delay = s.delay := (congrArg State.delay (State.memWriteBytes_eq s a l)).trans rfl
@[simp] theorem State.memWriteBytes_sound (a : Nat) (l : List Byte) : (s.memWriteBytes a l).sound = s.sound := (congrArg State.sound (State.memWriteBytes_eq s a l)).trans rfl
@[simp] theorem State.memWriteBytes_keys (a : Nat) (l : List Byte) : (s.memWriteBytes a l).keys = s.keys := (congrArg State.keys (State.memWriteBytes_eq s a l)).trans rfl
@[simp] theorem State.memWriteBytes_mode (a : Nat) (l : List Byte) : (s.memWriteBytes a l).mode = s.mode := (congrArg State.mode (State.memWriteBytes_eq s a l)).trans rfl
@[simp] theorem State.memWriteBytes_waitReg (a : Nat) (l : List Byte) : (s.memWriteBytes a l).waitReg = s.waitReg := (congrArg State.waitReg (State.memWriteBytes_eq s a l)).trans rfl
@[simp] theorem State.memWriteBytes_display (a : Nat) (l : List Byte) : (s.memWriteBytes a l).display = s.display := (congrArg State.display (State.memWriteBytes_eq s a l)).trans rfl
@[simp] theorem State.memWriteBytes_halt (a : Nat) (l : List Byte) : (s.memWriteBytes a l).halt = s.halt := (congrArg State.halt (State.memWriteBytes_eq s a l)).trans rfl
@[simp] theorem State.memWriteBytes_diag (a : Nat) (l : List Byte) : (s.memWriteBytes a l).diag = s.diag := (congrArg State.diag (State.memWriteBytes_eq s a l)).trans rfl
@[simp] theorem State.memWriteBytes_draws (a : Nat) (l : List Byte) : (s.memWriteBytes a l).draws = s.draws := (congrArg State.draws (State.memWriteBytes_eq s a l)).trans rfl
@[simp] theorem State.memWriteBytes_getV (a : Nat) (l : List Byte) (q : Reg) : (s.memWriteBytes a l).getV q = s.getV q := by rw [State.memWriteBytes_eq]; rfl
@[simp] theorem State.memWriteBytes_sp (a : Nat) (l : List Byte) : (s.memWriteBytes a l).sp = s.sp := by rw [State.memWriteBytes_eq]; rfl

/-- A run of at most 4096 stores from `a` up: byte `k` of the run is at `(a + k) mod 4096`, every other byte is as before. -/
theorem State.memWriteBytes_memRead (a : Nat) (l : List Byte) (hl : l.length ≤ 4096) (c : Nat) :
    (s.memWriteBytes a l).memRead c = l.getD ((c + (4096 - a % 4096)) % 4096) (s.memRead c) := by
  induction l generalizing s a with
  | nil => simp [State.memWriteBytes]
  | cons b l ih =>
    simp only [List.length_cons] at hl
    rw [State.memWriteBytes, ih (s.memWrite a b) (a + 1) (by omega), State.memWrite_memRead]
    by_cases h : a % 4096 = c % 4096
    · have h0 : (c + (4096 - a % 4096)) % 4096 = 0 := by omega
      have h1 : (c + (4096 - (a + 1) % 4096)) % 4096 = 4095 := by omega
      rw [h0, h1, if_pos h, List.getD_eq_default _ _ (by omega), List.getD_cons_zero]
    · have h0 : (c + (4096 - a % 4096)) % 4096 = (c + (4096 - (a + 1) % 4096)) % 4096 + 1 := by omega
      rw [h0, if_neg h, List.getD_cons_succ]

/-- A run of stores keeps the canonical form. -/
theorem State.memWriteBytes_wf {s : State} (h : Memory.wf s.cfg.font s.mem = true) (a : Nat) (l : List Byte) :
    Memory.wf (s.memWriteBytes a l).cfg.font (s.memWriteBytes a l).mem = true := by
  induction l generalizing s a with
  | nil => exact h
  | cons b l ih => exact ih (State.memWrite_wf h a b) (a + 1)

/-- The power-on memory reads as the reset contents everywhere (R250). -/
theorem State.powerOn_memRead (cfg : Config) (a : Nat) :
    (State.powerOn cfg).memRead a = resetByte cfg.font (a % 4096) := rfl

/-! ### storeRegs (R191) -/

/-- Storing registers changes the memory and nothing else. -/
theorem State.storeRegs_eq (a n : Nat) : s.storeRegs a n = s.setMem (s.storeRegs a n).mem := by
  induction n with
  | zero => rfl
  | succ n ih => rw [State.storeRegs, State.memWrite_eq, ih]; rfl

@[simp] theorem State.storeRegs_cfg (a n : Nat) : (s.storeRegs a n).cfg = s.cfg := (congrArg State.cfg (State.storeRegs_eq s a n)).trans rfl
@[simp] theorem State.storeRegs_v (a n : Nat) : (s.storeRegs a n).v = s.v := (congrArg State.v (State.storeRegs_eq s a n)).trans rfl
@[simp] theorem State.storeRegs_i (a n : Nat) : (s.storeRegs a n).i = s.i := (congrArg State.i (State.storeRegs_eq s a n)).trans rfl
@[simp] theorem State.storeRegs_pc (a n : Nat) : (s.storeRegs a n).pc = s.pc := (congrArg State.pc (State.storeRegs_eq s a n)).trans rfl
@[simp] theorem State.storeRegs_stack (a n : Nat) : (s.storeRegs a n).stack = s.stack := (congrArg State.stack (State.storeRegs_eq s a n)).trans rfl
@[simp] theorem State.storeRegs_delay (a n : Nat) : (s.storeRegs a n).delay = s.delay := (congrArg State.delay (State.storeRegs_eq s a n)).trans rfl
@[simp] theorem State.storeRegs_sound (a n : Nat) : (s.storeRegs a n).sound = s.sound := (congrArg State.sound (State.storeRegs_eq s a n)).trans rfl
@[simp] theorem State.storeRegs_keys (a n : Nat) : (s.storeRegs a n).keys = s.keys := (congrArg State.keys (State.storeRegs_eq s a n)).trans rfl
@[simp] theorem State.storeRegs_mode (a n : Nat) : (s.storeRegs a n).mode = s.mode := (congrArg State.mode (State.storeRegs_eq s a n)).trans rfl
@[simp] theorem State.storeRegs_waitReg (a n : Nat) : (s.storeRegs a n).waitReg = s.waitReg := (congrArg State.waitReg (State.storeRegs_eq s a n)).trans rfl
@[simp] theorem State.storeRegs_display (a n : Nat) : (s.storeRegs a n).display = s.display := (congrArg State.display (State.storeRegs_eq s a n)).trans rfl
@[simp] theorem State.storeRegs_halt (a n : Nat) : (s.storeRegs a n).halt = s.halt := (congrArg State.halt (State.storeRegs_eq s a n)).trans rfl
@[simp] theorem State.storeRegs_diag (a n : Nat) : (s.storeRegs a n).diag = s.diag := (congrArg State.diag (State.storeRegs_eq s a n)).trans rfl
@[simp] theorem State.storeRegs_draws (a n : Nat) : (s.storeRegs a n).draws = s.draws := (congrArg State.draws (State.storeRegs_eq s a n)).trans rfl
@[simp] theorem State.storeRegs_getV (a n : Nat) (q : Reg) : (s.storeRegs a n).getV q = s.getV q := by rw [State.storeRegs_eq]; rfl
@[simp] theorem State.storeRegs_sp (a n : Nat) : (s.storeRegs a n).sp = s.sp := by rw [State.storeRegs_eq]; rfl

/-- Storing the first `n` registers: register `k` is at `(a + k) mod 4096`, every other byte is as before. -/
theorem State.storeRegs_memRead (a n : Nat) (hn : n ≤ 16) (c : Nat) :
    (s.storeRegs a n).memRead c =
      if (c + (4096 - a % 4096)) % 4096 < n then s.getV (BitVec.ofNat 4 ((c + (4096 - a % 4096)) % 4096))
      else s.memRead c := by
  induction n with
  | zero => simp [State.storeRegs]
  | succ n ih =>
    rw [State.storeRegs, State.memWrite_memRead, ih (by omega)]
    by_cases h : (a + n) % 4096 = c % 4096
    · have h0 : (c + (4096 - a % 4096)) % 4096 = n := by omega
      simp [h, h0]
    · have h0 : (c + (4096 - a % 4096)) % 4096 ≠ n := by omega
      rw [if_neg h]
      by_cases h1 : (c + (4096 - a % 4096)) % 4096 < n
      · rw [if_pos h1, if_pos (by omega)]
      · rw [if_neg h1, if_neg (by omega)]

/-- Storing registers keeps the canonical form. -/
theorem State.storeRegs_wf {s : State} (h : Memory.wf s.cfg.font s.mem = true) (a n : Nat) :
    Memory.wf (s.storeRegs a n).cfg.font (s.storeRegs a n).mem = true := by
  induction n with
  | zero => exact h
  | succ n ih => exact State.memWrite_wf ih (a + n) _

/-! ### loadRegs (R192) -/

/-- Loading registers changes the general registers and nothing else. -/
theorem State.loadRegs_eq (a n : Nat) : s.loadRegs a n = { s with v := (s.loadRegs a n).v } := by
  induction n with
  | zero => rfl
  | succ n ih => rw [State.loadRegs, ih]; rfl

@[simp] theorem State.loadRegs_cfg (a n : Nat) : (s.loadRegs a n).cfg = s.cfg := (congrArg State.cfg (State.loadRegs_eq s a n)).trans rfl
@[simp] theorem State.loadRegs_mem (a n : Nat) : (s.loadRegs a n).mem = s.mem := (congrArg State.mem (State.loadRegs_eq s a n)).trans rfl
@[simp] theorem State.loadRegs_i (a n : Nat) : (s.loadRegs a n).i = s.i := (congrArg State.i (State.loadRegs_eq s a n)).trans rfl
@[simp] theorem State.loadRegs_pc (a n : Nat) : (s.loadRegs a n).pc = s.pc := (congrArg State.pc (State.loadRegs_eq s a n)).trans rfl
@[simp] theorem State.loadRegs_stack (a n : Nat) : (s.loadRegs a n).stack = s.stack := (congrArg State.stack (State.loadRegs_eq s a n)).trans rfl
@[simp] theorem State.loadRegs_delay (a n : Nat) : (s.loadRegs a n).delay = s.delay := (congrArg State.delay (State.loadRegs_eq s a n)).trans rfl
@[simp] theorem State.loadRegs_sound (a n : Nat) : (s.loadRegs a n).sound = s.sound := (congrArg State.sound (State.loadRegs_eq s a n)).trans rfl
@[simp] theorem State.loadRegs_keys (a n : Nat) : (s.loadRegs a n).keys = s.keys := (congrArg State.keys (State.loadRegs_eq s a n)).trans rfl
@[simp] theorem State.loadRegs_mode (a n : Nat) : (s.loadRegs a n).mode = s.mode := (congrArg State.mode (State.loadRegs_eq s a n)).trans rfl
@[simp] theorem State.loadRegs_waitReg (a n : Nat) : (s.loadRegs a n).waitReg = s.waitReg := (congrArg State.waitReg (State.loadRegs_eq s a n)).trans rfl
@[simp] theorem State.loadRegs_display (a n : Nat) : (s.loadRegs a n).display = s.display := (congrArg State.display (State.loadRegs_eq s a n)).trans rfl
@[simp] theorem State.loadRegs_halt (a n : Nat) : (s.loadRegs a n).halt = s.halt := (congrArg State.halt (State.loadRegs_eq s a n)).trans rfl
@[simp] theorem State.loadRegs_diag (a n : Nat) : (s.loadRegs a n).diag = s.diag := (congrArg State.diag (State.loadRegs_eq s a n)).trans rfl
@[simp] theorem State.loadRegs_draws (a n : Nat) : (s.loadRegs a n).draws = s.draws := (congrArg State.draws (State.loadRegs_eq s a n)).trans rfl
@[simp] theorem State.loadRegs_memRead (a n c : Nat) : (s.loadRegs a n).memRead c = s.memRead c := by
  rw [State.loadRegs_eq]; rfl

/-- Loading the first `n` registers: register `k` reads the byte at `a + k`, every other register is as before. -/
theorem State.loadRegs_getV (a n : Nat) (hn : n ≤ 16) (r : Reg) :
    (s.loadRegs a n).getV r = if r.toNat < n then s.memRead (a + r.toNat) else s.getV r := by
  induction n with
  | zero => simp [State.loadRegs]
  | succ n ih =>
    rw [State.loadRegs, State.setV_getV, ih (by omega)]
    by_cases h : r = BitVec.ofNat 4 n
    · have hr : r.toNat = n := by rw [h, BitVec.toNat_ofNat]; omega
      rw [if_pos h, if_pos (by omega), hr]
    · have hr : r.toNat ≠ n := fun e => h (by rw [← e, BitVec.ofNat_toNat, BitVec.setWidth_eq])
      rw [if_neg h]
      by_cases h1 : r.toNat < n
      · rw [if_pos h1, if_pos (by omega)]
      · rw [if_neg h1, if_neg (by omega)]

/-! ### The call stack (R25) -/

/-- `push` succeeds exactly below the capacity. -/
theorem State.push_eq (w : Word) :
    s.push w = if s.sp < 16 then some (s.setStack (s.stack ++ [w])) else none := rfl

/-- `pop` takes the entry pushed last. -/
theorem State.pop_append {s : State} {rest : List Word} {w : Word} (h : s.stack = rest ++ [w]) :
    s.pop = some (w, s.setStack rest) := by
  simp [State.pop, h]

/-- `pop` raises on the empty stack. -/
theorem State.pop_nil {s : State} (h : s.stack = []) : s.pop = none := by
  simp [State.pop, h]

/-- Everything `pop` can answer. -/
theorem State.pop_cases :
    (s.stack = [] ∧ s.pop = none) ∨
      ∃ rest w, s.stack = rest ++ [w] ∧ s.pop = some (w, s.setStack rest) := by
  rcases List.eq_nil_or_concat s.stack with h | ⟨rest, w, h⟩
  · exact .inl ⟨h, State.pop_nil h⟩
  · exact .inr ⟨rest, w, by simpa using h, State.pop_append (by simpa using h)⟩

/-! ### PC, skips, errors -/

theorem State.advancePc_eq : s.advancePc = s.setPc (s.pc + 2#16) := rfl

/-- In the state after the fetch, `pc0` is the address the instruction came from (R9, R24). -/
@[simp] theorem State.advancePc_pc0 : s.advancePc.pc0 = s.pc := by
  simp [State.pc0, State.advancePc]

theorem State.skipIf_eq (c : Bool) : s.skipIf c = s.setPc (if c then s.pc + 2#16 else s.pc) := by
  cases c <;> rfl

/-- Everything `raise` can leave (R211, R213). -/
theorem State.raise_cases (cause : ErrorCause) (w : Word) :
    (cause.fatal s.cfg.decodeErrorPolicy = true ∧ s.raise cause w = s.enterHalted cause w) ∨
      (cause = .decodeError ∧ s.cfg.decodeErrorPolicy = .skip ∧ s.raise cause w = s.addDiagnostic w) ∨
      (cause = .romTooLarge ∧ s.raise cause w = s) := by
  cases cause <;> cases h : s.cfg.decodeErrorPolicy <;> simp [State.raise, ErrorCause.fatal, h]

/-- A fatal entry in the state after the fetch is the state before the step but for mode and record (R213). -/
theorem State.advancePc_enterHalted (cause : ErrorCause) (w : Word) :
    s.advancePc.enterHalted cause w = (s.setMode .halted).setHalt (some ⟨cause, s.pc, w⟩) := by
  simp only [State.enterHalted, State.advancePc_pc0]
  rfl

/-! ### Loading a program (R251), and placing one word -/

/-- A loaded memory is canonical. -/
theorem State.loaded_wf (rom : List Byte) :
    Memory.wf (s.loaded rom).cfg.font (s.loaded rom).mem = true :=
  State.memWriteBytes_wf (s := State.powerOn s.cfg) (Memory.wf_nil _) Config.entry rom

/-- Placing a word to fetch keeps the canonical form. -/
theorem State.withFetchWord_wf {s : State} (h : Memory.wf s.cfg.font s.mem = true) (nbits w : Nat) :
    Memory.wf (s.withFetchWord nbits w).cfg.font (s.withFetchWord nbits w).mem = true :=
  State.memWriteBytes_wf h _ _

/-! ### Timers -/

theorem countDown_toNat (b : Byte) : (countDown b).toNat = b.toNat - 1 := by
  revert b; decide

end Sys2Proof.Machine
end

