-- ==== Sys2Proof/Laws/Draw.lean ====
section
/-! SUPPORT. What drawing does to every pixel and to the collision flag (spec/42_display.md R150, R152). -/

namespace Sys2Proof.Machine

/-- How far `p` lies after `p0` on a ring of `m` positions. -/
def ringDist (m p0 p : Nat) : Nat := (p + (m - p0)) % m

/-- Two bit planes are equal when every pixel is the same. -/
theorem Bitmap.ext_pixels {d e : Bitmap} (h : ∀ px py : Nat, px < 64 → py < 32 → pixelAt d px py = pixelAt e px py) :
    d = e := by
  apply Vector.ext
  intro py hy
  apply BitVec.eq_of_getLsbD_eq
  intro px hx
  simpa [pixelAt, Vector.getD, hy] using h px py hx hy

@[simp] theorem blank_pixel (px py : Nat) : pixelAt Bitmap.blank px py = false := by
  by_cases hy : py < 32 <;> simp [pixelAt, Bitmap.blank, Vector.getD, hy]

/-- A toggle flips one pixel. -/
theorem togglePixel_pixel {px py qx qy : Nat} (hx : px < 64) (hy : py < 32) (c : Bitmap × Bool) :
    pixelAt (togglePixel px py c).1 qx qy = (pixelAt c.1 qx qy ^^ (decide (qx = px) && decide (qy = py))) := by
  by_cases h : qy = py
  · subst h
    simp [pixelAt, togglePixel, Vector.getD, hy, BitVec.getLsbD_twoPow, hx, eq_comm]
  · by_cases hq : qy < 32
    · simp [pixelAt, togglePixel, Vector.getD, hq, h, Ne.symm h]
    · simp [pixelAt, togglePixel, Vector.getD, hq, h]

/-- One sprite row: column `c` of the byte lands on `x0 + c`, wrapped. -/
theorem drawColumns_pixel (b : Byte) {x0 py : Nat} (hx0 : x0 < 64) (hy : py < 32) {k : Nat} (hk : k ≤ 8)
    (acc : Bitmap × Bool) {qx qy : Nat} (hqx : qx < 64) :
    pixelAt (drawColumns b x0 py k acc).1 qx qy =
      (pixelAt acc.1 qx qy ^^
        (decide (qy = py) && decide (ringDist 64 x0 qx < k) && b.getLsbD (7 - ringDist 64 x0 qx))) := by
  induction k with
  | zero => simp [drawColumns]
  | succ k ih =>
    have ih := ih (by omega)
    have hd : (qx = (x0 + k) % 64) ↔ ringDist 64 x0 qx = k := by simp only [ringDist]; omega
    have hlt : ∀ d : Nat, (d < k + 1 ↔ d < k ∨ d = k) := fun d => by omega
    have hw : Config.displayW = 64 := rfl
    simp only [drawColumns, hw]
    split
    · rename_i hb
      rw [togglePixel_pixel (by omega) hy, ih]
      simp only [hd, hlt]
      by_cases h1 : ringDist 64 x0 qx = k
      · simp [h1, hb, Bool.and_comm]
      · simp [h1]
    · rename_i hb
      rw [ih]
      simp only [hlt]
      by_cases h1 : ringDist 64 x0 qx = k
      · simp [h1, hb]
      · simp [h1]

/-- One sprite row: the flag turns true when a set column lands on a pixel that was lit. -/
theorem drawColumns_hit (b : Byte) {x0 py : Nat} (hx0 : x0 < 64) (hy : py < 32) {k : Nat} (hk : k ≤ 8)
    (acc : Bitmap × Bool) :
    (drawColumns b x0 py k acc).2 = true ↔
      acc.2 = true ∨ ∃ c < k, b.getLsbD (7 - c) = true ∧ pixelAt acc.1 ((x0 + c) % 64) py = true := by
  induction k with
  | zero => simp [drawColumns]
  | succ k ih =>
    have ih := ih (by omega)
    have hd : ringDist 64 x0 ((x0 + k) % 64) = k := by simp only [ringDist]; omega
    have hpix := drawColumns_pixel b hx0 hy (by omega : k ≤ 8) acc (qx := (x0 + k) % 64) (qy := py) (by omega)
    simp only [hd, lt_irrefl, decide_false, Bool.and_false, Bool.false_and, Bool.xor_false] at hpix
    have hw : Config.displayW = 64 := rfl
    have hex : (∃ c < k + 1, b.getLsbD (7 - c) = true ∧ pixelAt acc.1 ((x0 + c) % 64) py = true) ↔
        (∃ c < k, b.getLsbD (7 - c) = true ∧ pixelAt acc.1 ((x0 + c) % 64) py = true) ∨
          (b.getLsbD (7 - k) = true ∧ pixelAt acc.1 ((x0 + k) % 64) py = true) := by
      constructor
      · rintro ⟨c, hc, h⟩
        rcases Nat.lt_succ_iff_lt_or_eq.mp hc with h' | rfl
        · exact .inl ⟨c, h', h⟩
        · exact .inr h
      · rintro (⟨c, hc, h⟩ | h)
        · exact ⟨c, by omega, h⟩
        · exact ⟨k, by omega, h⟩
    rw [hex]
    simp only [drawColumns, hw]
    split
    · rename_i hb
      simp only [togglePixel, Bool.or_eq_true, ih, hpix, hb, true_and, or_assoc]
    · rename_i hb
      simp [ih, hb]

/-- A whole sprite: row `r` lands on `y0 + r`, wrapped, and no pixel is touched twice. -/
theorem drawRows_pixel (byteAt : Nat → Byte) {x0 y0 : Nat} (hx0 : x0 < 64) (hy0 : y0 < 32) {n : Nat} (hn : n ≤ 15)
    (acc : Bitmap × Bool) {qx qy : Nat} (hqx : qx < 64) (hqy : qy < 32) :
    pixelAt (drawRows byteAt x0 y0 n acc).1 qx qy =
      (pixelAt acc.1 qx qy ^^
        (decide (ringDist 32 y0 qy < n) && decide (ringDist 64 x0 qx < 8) &&
          (byteAt (ringDist 32 y0 qy)).getLsbD (7 - ringDist 64 x0 qx))) := by
  induction n with
  | zero => simp [drawRows]
  | succ n ih =>
    have ih := ih (by omega)
    have hd : (qy = (y0 + n) % 32) ↔ ringDist 32 y0 qy = n := by simp only [ringDist]; omega
    have hlt : ∀ d : Nat, (d < n + 1 ↔ d < n ∨ d = n) := fun d => by omega
    have hh : Config.displayH = 32 := rfl
    rw [drawRows, hh, drawColumns_pixel _ hx0 (by omega) (le_refl 8) _ hqx, ih]
    simp only [hd, hlt]
    by_cases h1 : ringDist 32 y0 qy = n
    · simp [h1]
    · simp [h1]

/-- A whole sprite: the flag turns true when a set bit lands on a pixel that was lit before the draw. -/
theorem drawRows_hit (byteAt : Nat → Byte) {x0 y0 : Nat} (hx0 : x0 < 64) (hy0 : y0 < 32) {n : Nat} (hn : n ≤ 15)
    (acc : Bitmap × Bool) :
    (drawRows byteAt x0 y0 n acc).2 = true ↔
      acc.2 = true ∨ ∃ r < n, ∃ c < 8, (byteAt r).getLsbD (7 - c) = true ∧
        pixelAt acc.1 ((x0 + c) % 64) ((y0 + r) % 32) = true := by
  induction n with
  | zero => simp [drawRows]
  | succ n ih =>
    have ih := ih (by omega)
    have hd : ringDist 32 y0 ((y0 + n) % 32) = n := by simp only [ringDist]; omega
    have hpix : ∀ c, pixelAt (drawRows byteAt x0 y0 n acc).1 ((x0 + c) % 64) ((y0 + n) % 32) =
        pixelAt acc.1 ((x0 + c) % 64) ((y0 + n) % 32) := fun c => by
      rw [drawRows_pixel byteAt hx0 hy0 (by omega) acc (by omega) (by omega), hd]
      simp
    have hh : Config.displayH = 32 := rfl
    rw [drawRows, hh, drawColumns_hit _ hx0 (by omega) (le_refl 8), ih]
    simp only [hpix]
    constructor
    · rintro ((h | ⟨r, hr, h⟩) | h)
      · exact .inl h
      · exact .inr ⟨r, by omega, h⟩
      · exact .inr ⟨n, by omega, h⟩
    · rintro (h | ⟨r, hr, h⟩)
      · exact .inl (.inl h)
      · rcases Nat.lt_succ_iff_lt_or_eq.mp hr with h' | rfl
        · exact .inl (.inr ⟨r, h', h⟩)
        · exact .inr h

end Sys2Proof.Machine
end

