-- ==== Sys2Proof/Laws/Frame.lean ====
section
/-! SUPPORT. Frames: what each update leaves as it was, and how frames compose. -/

namespace Sys2Proof.Machine

/-- Nothing changed. -/
theorem SameExcept.refl (L : List Component) (s : State) : SameExcept L s s := by
  intro c _; cases c <;> rfl

/-- A frame with more components listed says less. -/
theorem SameExcept.mono {L M : List Component} {s t : State} (h : SameExcept L s t) (hLM : ∀ c ∈ L, c ∈ M) :
    SameExcept M s t := fun c hc => h c (fun hl => hc (hLM c hl))

/-- What two changes in a row leave. -/
theorem SameExcept.trans {L : List Component} {s t u : State} (h : SameExcept L s t) (h' : SameExcept L t u) :
    SameExcept L s u := by
  intro c hc
  have h1 := h c hc
  have h2 := h' c hc
  cases c <;> exact Eq.trans h2 h1

/-! ### One update at a time -/

theorem SameExcept.setI {L : List Component} (s : State) (w : Word) (h : .i ∈ L) : SameExcept L s (s.setI w) := by
  intro c hc; cases c <;> first | rfl | exact absurd h hc

theorem SameExcept.setPc {L : List Component} (s : State) (w : Word) (h : .pc ∈ L) : SameExcept L s (s.setPc w) := by
  intro c hc; cases c <;> first | rfl | exact absurd h hc

theorem SameExcept.setStack {L : List Component} (s : State) (l : List Word) (h : .stack ∈ L) : SameExcept L s (s.setStack l) := by
  intro c hc; cases c <;> first | rfl | exact absurd h hc

theorem SameExcept.setDelay {L : List Component} (s : State) (b : Byte) (h : .delay ∈ L) : SameExcept L s (s.setDelay b) := by
  intro c hc; cases c <;> first | rfl | exact absurd h hc

theorem SameExcept.setSound {L : List Component} (s : State) (b : Byte) (h : .sound ∈ L) : SameExcept L s (s.setSound b) := by
  intro c hc; cases c <;> first | rfl | exact absurd h hc

theorem SameExcept.setKeyBit {L : List Component} (s : State) (k : Fin 16) (p : Bool) (h : .keys ∈ L) : SameExcept L s (s.setKeyBit k p) := by
  intro c hc; cases c <;> first | rfl | exact absurd h hc

theorem SameExcept.setMode {L : List Component} (s : State) (m : Mode) (h : .mode ∈ L) : SameExcept L s (s.setMode m) := by
  intro c hc; cases c <;> first | rfl | exact absurd h hc

theorem SameExcept.setWaitReg {L : List Component} (s : State) (r : Reg) (h : .waitReg ∈ L) : SameExcept L s (s.setWaitReg r) := by
  intro c hc; cases c <;> first | rfl | exact absurd h hc

theorem SameExcept.setDisplay {L : List Component} (s : State) (d : Bitmap) (h : .display ∈ L) : SameExcept L s (s.setDisplay d) := by
  intro c hc; cases c <;> first | rfl | exact absurd h hc

theorem SameExcept.setHalt {L : List Component} (s : State) (r : Option HaltRecord) (h : .halt ∈ L) : SameExcept L s (s.setHalt r) := by
  intro c hc; cases c <;> first | rfl | exact absurd h hc

theorem SameExcept.setDiag {L : List Component} (s : State) (l : List Diagnostic) (h : .diag ∈ L) : SameExcept L s (s.setDiag l) := by
  intro c hc; cases c <;> first | rfl | exact absurd h hc

theorem SameExcept.setDraws {L : List Component} (s : State) (n : Nat) (h : .draws ∈ L) : SameExcept L s (s.setDraws n) := by
  intro c hc; cases c <;> first | rfl | exact absurd h hc

theorem SameExcept.setV {L : List Component} (s : State) (r : Reg) (b : Byte) (h : .v r ∈ L) :
    SameExcept L s (s.setV r b) := by
  intro c hc
  cases c with
  | v q => exact State.setV_getV_of_ne s (fun e => hc (by rw [e]; exact h)) b
  | _ => rfl

/-- Two addresses name one byte exactly when they agree modulo 4096 (R51). -/
theorem Component.byteAt_eq_iff (a b : Nat) : Component.byteAt a = Component.byteAt b ↔ a % 4096 = b % 4096 := by
  simp only [Component.byteAt, Component.mem.injEq]
  constructor
  · intro h
    have := congrArg BitVec.toNat h
    simpa [BitVec.toNat_ofNat] using this
  · intro h
    apply BitVec.eq_of_toNat_eq
    simpa [BitVec.toNat_ofNat] using h

/-- A component of memory is the byte at its own address. -/
theorem Component.mem_eq_byteAt (a : Addr) : Component.mem a = Component.byteAt a.toNat := by
  simp [Component.byteAt]

theorem SameExcept.memWrite {L : List Component} (s : State) (a : Nat) (b : Byte) (h : .byteAt a ∈ L) :
    SameExcept L s (s.memWrite a b) := by
  intro c hc
  cases c with
  | mem q =>
    simp only [Component.Same, State.memWrite_memRead]
    split
    · rename_i e
      rw [Component.mem_eq_byteAt, ← (Component.byteAt_eq_iff a q.toNat).mpr e] at hc
      exact absurd h hc
    · rfl
  | _ => rfl

theorem SameExcept.memWriteBytes {L : List Component} (s : State) (a : Nat) (l : List Byte)
    (h : ∀ k < l.length, .byteAt (a + k) ∈ L) : SameExcept L s (s.memWriteBytes a l) := by
  induction l generalizing s a with
  | nil => exact .refl L s
  | cons b l ih =>
    refine (SameExcept.memWrite s a b (h 0 (by simp))).trans (ih (s.memWrite a b) (a + 1) fun k hk => ?_)
    rw [show a + 1 + k = a + (k + 1) by omega]
    exact h (k + 1) (by simpa using hk)

theorem SameExcept.storeRegs {L : List Component} (s : State) (a n : Nat) (h : ∀ k < n, .byteAt (a + k) ∈ L) :
    SameExcept L s (s.storeRegs a n) := by
  induction n with
  | zero => exact .refl L s
  | succ n ih =>
    exact (ih fun k hk => h k (by omega)).trans (SameExcept.memWrite _ _ _ (h n (by omega)))

theorem SameExcept.loadRegs {L : List Component} (s : State) (a n : Nat)
    (h : ∀ k < n, .v (BitVec.ofNat 4 k) ∈ L) : SameExcept L s (s.loadRegs a n) := by
  induction n with
  | zero => exact .refl L s
  | succ n ih =>
    exact (ih fun k hk => h k (by omega)).trans (SameExcept.setV _ _ _ (h n (by omega)))

end Sys2Proof.Machine
end

