-- ==== Sys2Proof/Laws/PerInstr.lean ====
section
/-! SUPPORT. The family EncodeMatchesRow: the word of an instruction matches its row of spec/opcode_table.json, one lemma per constructor. -/

namespace Sys2Proof.Laws.EncodeMatchesRow

open Sys2Proof.Machine

/-- The encoder's word, under the row's mask, is the row's match. -/
def Statement (i : Instr) : Prop := encode i &&& (opcodeRow i).2 = (opcodeRow i).1

theorem matches_F000 (op : Nibble) (w : Word) (h : opOf w = op) : w &&& 0xF000#16 = formatNNN op 0#12 := by
  rw [and_F000, h]

theorem matches_F00F (op n : Nibble) (w : Word) (h : opOf w = op) (hn : nOf w = n) :
    w &&& 0xF00F#16 = formatXNN op 0#4 (n.setWidth 8) := by
  rw [and_F00F, h, hn]

theorem matches_F0FF (op : Nibble) (nn : Byte) (w : Word) (h : opOf w = op) (hn : nnOf w = nn) :
    w &&& 0xF0FF#16 = formatXNN op 0#4 nn := by
  rw [and_F0FF, h, hn]

theorem cls : Statement .cls := rfl
theorem ret : Statement .ret := rfl
theorem sys (nnn : Addr) : Statement (.sys nnn) := matches_F000 _ _ (opOf_formatNNN _ nnn)
theorem jp (nnn : Addr) : Statement (.jp nnn) := matches_F000 _ _ (opOf_formatNNN _ nnn)
theorem call (nnn : Addr) : Statement (.call nnn) := matches_F000 _ _ (opOf_formatNNN _ nnn)
theorem seImm (x : Reg) (nn : Byte) : Statement (.seImm x nn) := matches_F000 _ _ (opOf_formatXNN _ x nn)
theorem sneImm (x : Reg) (nn : Byte) : Statement (.sneImm x nn) := matches_F000 _ _ (opOf_formatXNN _ x nn)
theorem seReg (x : Reg) (y : Reg) : Statement (.seReg x y) := matches_F00F _ _ _ (opOf_formatXYN _ x y _) (nOf_formatXYN _ x y _)
theorem ldImm (x : Reg) (nn : Byte) : Statement (.ldImm x nn) := matches_F000 _ _ (opOf_formatXNN _ x nn)
theorem addImm (x : Reg) (nn : Byte) : Statement (.addImm x nn) := matches_F000 _ _ (opOf_formatXNN _ x nn)
theorem ldReg (x : Reg) (y : Reg) : Statement (.ldReg x y) := matches_F00F _ _ _ (opOf_formatXYN _ x y _) (nOf_formatXYN _ x y _)
theorem or (x : Reg) (y : Reg) : Statement (.or x y) := matches_F00F _ _ _ (opOf_formatXYN _ x y _) (nOf_formatXYN _ x y _)
theorem and (x : Reg) (y : Reg) : Statement (.and x y) := matches_F00F _ _ _ (opOf_formatXYN _ x y _) (nOf_formatXYN _ x y _)
theorem xor (x : Reg) (y : Reg) : Statement (.xor x y) := matches_F00F _ _ _ (opOf_formatXYN _ x y _) (nOf_formatXYN _ x y _)
theorem addReg (x : Reg) (y : Reg) : Statement (.addReg x y) := matches_F00F _ _ _ (opOf_formatXYN _ x y _) (nOf_formatXYN _ x y _)
theorem sub (x : Reg) (y : Reg) : Statement (.sub x y) := matches_F00F _ _ _ (opOf_formatXYN _ x y _) (nOf_formatXYN _ x y _)
theorem shr (x : Reg) (y : Reg) : Statement (.shr x y) := matches_F00F _ _ _ (opOf_formatXYN _ x y _) (nOf_formatXYN _ x y _)
theorem subn (x : Reg) (y : Reg) : Statement (.subn x y) := matches_F00F _ _ _ (opOf_formatXYN _ x y _) (nOf_formatXYN _ x y _)
theorem shl (x : Reg) (y : Reg) : Statement (.shl x y) := matches_F00F _ _ _ (opOf_formatXYN _ x y _) (nOf_formatXYN _ x y _)
theorem sneReg (x : Reg) (y : Reg) : Statement (.sneReg x y) := matches_F00F _ _ _ (opOf_formatXYN _ x y _) (nOf_formatXYN _ x y _)
theorem ldI (nnn : Addr) : Statement (.ldI nnn) := matches_F000 _ _ (opOf_formatNNN _ nnn)
theorem jpV0 (nnn : Addr) : Statement (.jpV0 nnn) := matches_F000 _ _ (opOf_formatNNN _ nnn)
theorem rnd (x : Reg) (nn : Byte) : Statement (.rnd x nn) := matches_F000 _ _ (opOf_formatXNN _ x nn)
theorem drw (x : Reg) (y : Reg) (n : Nibble) : Statement (.drw x y n) := matches_F000 _ _ (opOf_formatXYN _ x y n)
theorem skp (x : Reg) : Statement (.skp x) := matches_F0FF _ _ _ (opOf_formatXNN _ x _) (nnOf_formatXNN _ x _)
theorem sknp (x : Reg) : Statement (.sknp x) := matches_F0FF _ _ _ (opOf_formatXNN _ x _) (nnOf_formatXNN _ x _)
theorem ldVxDt (x : Reg) : Statement (.ldVxDt x) := matches_F0FF _ _ _ (opOf_formatXNN _ x _) (nnOf_formatXNN _ x _)
theorem ldVxK (x : Reg) : Statement (.ldVxK x) := matches_F0FF _ _ _ (opOf_formatXNN _ x _) (nnOf_formatXNN _ x _)
theorem ldDtVx (x : Reg) : Statement (.ldDtVx x) := matches_F0FF _ _ _ (opOf_formatXNN _ x _) (nnOf_formatXNN _ x _)
theorem ldStVx (x : Reg) : Statement (.ldStVx x) := matches_F0FF _ _ _ (opOf_formatXNN _ x _) (nnOf_formatXNN _ x _)
theorem addI (x : Reg) : Statement (.addI x) := matches_F0FF _ _ _ (opOf_formatXNN _ x _) (nnOf_formatXNN _ x _)
theorem ldF (x : Reg) : Statement (.ldF x) := matches_F0FF _ _ _ (opOf_formatXNN _ x _) (nnOf_formatXNN _ x _)
theorem ldB (x : Reg) : Statement (.ldB x) := matches_F0FF _ _ _ (opOf_formatXNN _ x _) (nnOf_formatXNN _ x _)
theorem ldMemVx (x : Reg) : Statement (.ldMemVx x) := matches_F0FF _ _ _ (opOf_formatXNN _ x _) (nnOf_formatXNN _ x _)
theorem ldVxMem (x : Reg) : Statement (.ldVxMem x) := matches_F0FF _ _ _ (opOf_formatXNN _ x _) (nnOf_formatXNN _ x _)

end Sys2Proof.Laws.EncodeMatchesRow
end

