-- ==== Sys2Proof/Tests/Slice0.lean ====
section
/-! SUPPORT. Tests: the well-formedness smoke test, one word per row of the opcode table, the vectors of spec/95_test_vectors.md,
and a witness for every statement that has hypotheses. Expected values are the spec's. -/

namespace Sys2Proof.Tests

open Sys2Proof.Machine

/-! ### Helpers -/

/-- The state an operation answers; reset where it answers none (no test relies on that). -/
def stateOf : Result → State
  | .next t => t
  | _ => State.reset

/-- One step on the word `w`, placed at PC in `s`. -/
def runWord (s : State) (w : Nat) : State := stateOf (step (s.withFetchWord 16 w))

/-- The reset state with registers 1 and 2 set. -/
def v12 (a b : Byte) : State := (State.reset.setV 1#4 a).setV 2#4 b

/-- The reset state with registers 0 and F set. -/
def v0f (a f : Byte) : State := (State.reset.setV 0#4 a).setV 0xF#4 f

/-- The reset state under policy `halt`. -/
def strict : State := State.powerOn { standardConfig with decodeErrorPolicy := .halt }

/-- The reset state with `n` entries 0x300 on the call stack. -/
def nested (n : Nat) : State := State.reset.setStack (List.replicate n 0x300#16)

/-! ### Well-formedness: the ill-formed terms -/

theorem test_sys_0E0_is_ill_formed : (Instr.sys 0x0E0#12).wf = false := by decide
theorem test_sys_0EE_is_ill_formed : (Instr.sys 0x0EE#12).wf = false := by decide

/-! ### Decoding: one word for every row, written out from spec/opcode_table.json's "encoding" column -/

theorem test_decode_group0 : decode 0b0000000011100000#16 = .ok .cls ∧ decode 0b0000000011101110#16 = .ok .ret ∧
    decode 0b0000000100100011#16 = .ok (.sys 0x123#12) ∧ decode 0x0000#16 = .ok (.sys 0x000#12) := by decide
theorem test_decode_jumps : decode 0b0001001000110100#16 = .ok (.jp 0x234#12) ∧
    decode 0b0010101010111100#16 = .ok (.call 0xABC#12) ∧ decode 0b1011001100000000#16 = .ok (.jpV0 0x300#12) := by decide
theorem test_decode_skips : decode 0b0011001101000010#16 = .ok (.seImm 3#4 0x42#8) ∧
    decode 0b0100001101000010#16 = .ok (.sneImm 3#4 0x42#8) ∧ decode 0b0101000100100000#16 = .ok (.seReg 1#4 2#4) ∧
    decode 0b1001000100100000#16 = .ok (.sneReg 1#4 2#4) := by decide
theorem test_decode_immediates : decode 0b0110101000111100#16 = .ok (.ldImm 0xA#4 0x3C#8) ∧
    decode 0b0111000011111111#16 = .ok (.addImm 0#4 0xFF#8) ∧ decode 0b1100000000001111#16 = .ok (.rnd 0#4 0x0F#8) ∧
    decode 0b1010001100000000#16 = .ok (.ldI 0x300#12) := by decide
theorem test_decode_group8 : decode 0b1000000100100000#16 = .ok (.ldReg 1#4 2#4) ∧
    decode 0b1000000100100001#16 = .ok (.or 1#4 2#4) ∧ decode 0b1000000100100010#16 = .ok (.and 1#4 2#4) ∧
    decode 0b1000000100100011#16 = .ok (.xor 1#4 2#4) ∧ decode 0b1000000100100100#16 = .ok (.addReg 1#4 2#4) ∧
    decode 0b1000000100100101#16 = .ok (.sub 1#4 2#4) ∧ decode 0b1000000100100110#16 = .ok (.shr 1#4 2#4) ∧
    decode 0b1000000100100111#16 = .ok (.subn 1#4 2#4) ∧ decode 0b1000000100101110#16 = .ok (.shl 1#4 2#4) := by decide
theorem test_decode_drw : decode 0b1101000100100101#16 = .ok (.drw 1#4 2#4 5#4) := by decide
theorem test_decode_keys : decode 0b1110000110011110#16 = .ok (.skp 1#4) ∧
    decode 0b1110000110100001#16 = .ok (.sknp 1#4) ∧ decode 0b1111001100001010#16 = .ok (.ldVxK 3#4) := by decide
theorem test_decode_timers : decode 0b1111000100000111#16 = .ok (.ldVxDt 1#4) ∧
    decode 0b1111101000010101#16 = .ok (.ldDtVx 0xA#4) ∧ decode 0b1111001000011000#16 = .ok (.ldStVx 2#4) := by decide
theorem test_decode_index : decode 0b1111010000011110#16 = .ok (.addI 4#4) ∧
    decode 0b1111001100101001#16 = .ok (.ldF 3#4) ∧ decode 0b1111000000110011#16 = .ok (.ldB 0#4) ∧
    decode 0b1111001001010101#16 = .ok (.ldMemVx 2#4) ∧ decode 0b1111001001100101#16 = .ok (.ldVxMem 2#4) := by decide
theorem test_decode_unlisted : decode 0x512F#16 = .error (.group5 0xF#4) ∧ decode 0x812F#16 = .error (.group8 0xF#4) ∧
    decode 0x9121#16 = .error (.group9 1#4) ∧ decode 0xE09F#16 = .error (.groupE 0x9F#8) ∧
    decode 0xF000#16 = .error (.groupF 0x00#8) := by decide
theorem test_decode_bytes_big_endian : decodeBytes [0x6A#8, 0x12#8, 0xFF#8] = .ok (.ldImm 0xA#4 0x12#8, [0xFF#8]) ∧
    decodeBytes [0x6A#8] = .error .truncated := by decide
theorem test_decode_table_word : decodeTableWord 16 0xF265 = some (.ldVxMem 2#4) ∧ decodeTableWord 16 0x5121 = none := by
  decide

/-! ### Fetch (vectors E1 to E5) -/

theorem test_fetch_wraps_at_the_last_byte :  -- E2
    let t := stateOf (step (((State.reset.setPc 0xFFF#16).memWrite 0xFFF 0x6A#8).memWrite 0x000 0x12#8))
    (t.getV 0xA#4, t.pc) = (0x12#8, 0x1001#16) := by decide
theorem test_fetch_above_the_top :  -- E3
    let t := stateOf (step (((State.reset.setPc 0x10FE#16).memWrite 0x0FE 0x6B#8).memWrite 0x0FF 0x34#8))
    (t.getV 0xB#4, t.pc) = (0x34#8, 0x1100#16) := by decide
theorem test_fetch_odd :  -- E5
    let t := runWord (State.reset.setPc 0x201#16) 0x6055
    (t.getV 0#4, t.pc) = (0x55#8, 0x203#16) := by decide

/-! ### Control flow (vectors E6 to E13, C1 to C20) -/

theorem test_sys_skip :  -- E7
    let t := runWord State.reset 0x0123
    (t.pc, t.diag, t.mode) = (0x202#16, [⟨0x200#16, 0x0123#16⟩], .running) := by decide
theorem test_sys_halt :  -- E8
    let t := runWord strict 0x0123
    (t.pc, t.diag, t.mode, t.halt) = (0x200#16, [], .halted, some ⟨.decodeError, 0x200#16, 0x0123#16⟩) := by decide
theorem test_unlisted_skip :  -- E9
    let t := runWord (v12 7#8 7#8) 0x5121
    (t.pc, t.diag) = (0x202#16, [⟨0x200#16, 0x5121#16⟩]) := by decide
theorem test_unlisted_halt :  -- E14
    let t := runWord strict 0x5121
    (t.pc, t.mode, t.halt) = (0x200#16, .halted, some ⟨.decodeError, 0x200#16, 0x5121#16⟩) := by decide
theorem test_ret :  -- C1
    let t := runWord (State.reset.setStack [0x2AB#16]) 0x00EE
    (t.pc, t.stack) = (0x2AB#16, []) := by decide
theorem test_ret_empty :  -- C2
    let t := runWord State.reset 0x00EE
    (t.pc, t.mode, t.halt) = (0x200#16, .halted, some ⟨.stackUnderflow, 0x200#16, 0x00EE#16⟩) := by decide
theorem test_jp_odd : (runWord State.reset 0x1201).pc = 0x201#16 := by decide  -- C4
theorem test_call :  -- C6
    let t := runWord State.reset 0x2ABC
    (t.pc, t.stack) = (0xABC#16, [0x202#16]) := by decide
theorem test_call_full :  -- C7
    let t := runWord (nested 16) 0x2ABC
    (t.pc, t.sp, t.halt) = (0x200#16, 16, some ⟨.stackOverflow, 0x200#16, 0x2ABC#16⟩) := by decide
theorem test_se_imm :  -- C8, C9
    (runWord (State.reset.setV 3#4 0x42#8) 0x3342).pc = 0x204#16 ∧
    (runWord (State.reset.setV 3#4 0x42#8) 0x3343).pc = 0x202#16 := by decide
theorem test_sne_imm :  -- C10, C11
    (runWord (State.reset.setV 3#4 0x42#8) 0x4342).pc = 0x202#16 ∧
    (runWord (State.reset.setV 3#4 0x42#8) 0x4343).pc = 0x204#16 := by decide
theorem test_se_reg :  -- C12, C13
    (runWord (v12 7#8 7#8) 0x5120).pc = 0x204#16 ∧ (runWord (v12 7#8 8#8) 0x5120).pc = 0x202#16 := by decide
theorem test_sne_reg :  -- C15, C16
    (runWord (v12 7#8 8#8) 0x9120).pc = 0x204#16 ∧ (runWord (v12 7#8 7#8) 0x9120).pc = 0x202#16 := by decide
theorem test_jp_v0 :  -- C17, C18
    (runWord (State.reset.setV 0#4 0x10#8) 0xB300).pc = 0x310#16 ∧
    (runWord (State.reset.setV 0#4 0xFF#8) 0xBFFF).pc = 0x10FE#16 := by decide

/-! ### Loads and arithmetic (vectors A1 to A32) -/

theorem test_ld_imm : (runWord State.reset 0x6A7F).getV 0xA#4 = 0x7F#8 := by decide  -- A1
theorem test_add_imm :  -- A2
    let t := runWord ((State.reset.setV 0xA#4 2#8).setV 0xF#4 0xAA#8) 0x7AFF
    (t.getV 0xA#4, t.getV 0xF#4) = (1#8, 0xAA#8) := by decide
theorem test_ld_reg : (runWord (v12 0#8 0x33#8) 0x8120).getV 1#4 = 0x33#8 := by decide  -- A4
theorem test_logical_keep_vf :  -- A5, A6, A7
    let s := (v12 0xF0#8 0x0F#8).setV 0xF#4 0x55#8
    (runWord s 0x8121).getV 1#4 = 0xFF#8 ∧ (runWord s 0x8121).getV 0xF#4 = 0x55#8 ∧
    (runWord s 0x8122).getV 1#4 = 0x00#8 ∧ (runWord s 0x8122).getV 0xF#4 = 0x55#8 ∧
    (runWord (s.setV 1#4 0xFF#8) 0x8123).getV 1#4 = 0xF0#8 := by decide
theorem test_add_reg :  -- A9, A10
    ((runWord (v12 0xFA#8 0x0A#8) 0x8124).getV 1#4, (runWord (v12 0xFA#8 0x0A#8) 0x8124).getV 0xF#4) = (4#8, 1#8) ∧
    (runWord ((v12 1#8 1#8).setV 0xF#4 1#8) 0x8124).getV 0xF#4 = 0#8 := by decide
theorem test_add_into_vf : (runWord (v0f 1#8 0xFF#8) 0x8F04).getV 0xF#4 = 1#8 := by decide  -- A13
theorem test_sub :  -- A14, A16
    ((runWord (v12 5#8 10#8) 0x8125).getV 1#4, (runWord (v12 5#8 10#8) 0x8125).getV 0xF#4) = (0xFB#8, 0#8) ∧
    (runWord (v12 7#8 7#8) 0x8125).getV 0xF#4 = 0#8 := by decide
theorem test_sub_into_vf : (runWord (v0f 1#8 3#8) 0x8F05).getV 0xF#4 = 1#8 := by decide  -- A17
theorem test_shr :  -- A18, A20
    ((runWord (v12 5#8 0xFF#8) 0x8126).getV 1#4, (runWord (v12 5#8 0xFF#8) 0x8126).getV 0xF#4) = (2#8, 1#8) ∧
    (runWord (v0f 0#8 3#8) 0x8F06).getV 0xF#4 = 1#8 := by decide
theorem test_subn :  -- A21, A22
    ((runWord (v12 5#8 10#8) 0x8127).getV 1#4, (runWord (v12 5#8 10#8) 0x8127).getV 0xF#4) = (5#8, 1#8) ∧
    ((runWord (v12 10#8 5#8) 0x8127).getV 1#4, (runWord (v12 10#8 5#8) 0x8127).getV 0xF#4) = (0xFB#8, 0#8) := by decide
theorem test_shl :  -- A24, A26
    ((runWord (v12 0x81#8 0#8) 0x812E).getV 1#4, (runWord (v12 0x81#8 0#8) 0x812E).getV 0xF#4) = (2#8, 1#8) ∧
    (runWord (v0f 0#8 0x81#8) 0x8F0E).getV 0xF#4 = 1#8 := by decide
theorem test_ld_i : (runWord State.reset 0xA123).i = 0x123#16 := by decide  -- A27
theorem test_rnd_mask_zero (s : State) : exec (.rnd 0#4 0x00#8) s = .next (s.afterDraw.setV 0#4 0x00#8) := by  -- A29
  simp [exec, execRnd]
theorem test_add_i_wraps :  -- A31
    let t := runWord ((v0f 2#8 0x77#8).setI 0xFFF#16) 0xF01E
    (t.i, t.getV 0xF#4) = (0x001#16, 0x77#8) := by decide

/-! ### Display (vectors D1 to D14) -/

theorem test_cls :  -- D1
    let t := runWord ((State.reset.setV 0xF#4 9#8).setDisplay (togglePixel 4 3 (Bitmap.blank, false)).1) 0x00E0
    (t.display, t.getV 0xF#4) = (Bitmap.blank, 9#8) := by decide
theorem test_drw_glyph_0 :  -- D2
    let t := runWord (State.reset.setI 0x050#16) 0xD005
    (t.getV 0xF#4, t.display) = (0#8, #v[0xF#64, 0x9#64, 0x9#64, 0x9#64, 0xF#64] ++ Vector.replicate 27 0#64) := by decide
theorem test_drw_wraps_each_pixel :  -- D3
    let t := runWord ((((State.reset.setV 0#4 62#8).setV 1#4 31#8).setI 0x300#16).memWrite 0x300 0xFF#8) 0xD011
    ((readFrame t).pixels.zipIdx.filterMap fun p => if p.1 then some (p.2 % 64, p.2 / 64) else none) =
      [(0, 31), (1, 31), (2, 31), (3, 31), (4, 31), (5, 31), (62, 31), (63, 31)] := by decide +kernel
theorem test_ld_f :  -- D12, D13
    (runWord (State.reset.setV 0#4 0x10#8) 0xF029).i = 0x0A0#16 ∧
    (runWord (State.reset.setV 0#4 0xFF#8) 0xF029).i = 0x54B#16 := by decide

/-! ### Keys and timers (vectors K1 to K20) -/

theorem test_skp :  -- K1, K3
    (runWord ((State.reset.setV 0#4 5#8).setKeyBit 5 true) 0xE09E).pc = 0x204#16 ∧
    (runWord ((State.reset.setV 0#4 0x10#8).setKeyBit 0 true) 0xE09E).pc = 0x202#16 := by decide
theorem test_sknp :  -- K5, K6
    (runWord ((State.reset.setV 0#4 5#8).setKeyBit 5 true) 0xE0A1).pc = 0x202#16 ∧
    (runWord ((State.reset.setV 0#4 0x10#8).setKeyBit 0 true) 0xE0A1).pc = 0x204#16 := by decide
theorem test_key_wait :  -- K7, K10
    let t := runWord (State.reset.setV 3#4 0x66#8) 0xF30A
    (t.mode, t.waitReg, t.pc, t.getV 3#4) = (.awaitingKey, 3#4, 0x202#16, 0x66#8) ∧
    ((stateOf (setKey 9 true t)).mode, (stateOf (setKey 9 true t)).getV 3#4) = (.running, 9#8) := by decide
theorem test_timers :  -- K14, K15, K16
    (runWord (State.reset.setDelay 0x2A#8) 0xF307).getV 3#4 = 0x2A#8 ∧
    (runWord (State.reset.setDelay 9#8) 0xF315).delay = 0#8 ∧
    (runWord (State.reset.setV 3#4 0xFF#8) 0xF318).sound = 0xFF#8 := by decide
theorem test_batch_of_zero_steps_decrements :  -- K17
    let t := stateOf (runBatch 0 ((State.reset.setDelay 5#8).setSound 1#8))
    (t.delay, t.sound, t.pc) = (4#8, 0#8, 0x200#16) := by decide
theorem test_timer_within_a_batch :  -- K20
    let t := stateOf (runBatch 2 ((load [0xF0#8, 0x15#8, 0xF1#8, 0x07#8] State.reset).1.setV 0#4 0x20#8))
    (t.getV 1#4, t.delay) = (0x20#8, 0x1F#8) := by decide

/-! ### Memory transfers (vectors M1 to M14) -/

theorem test_ld_b :  -- M1, M8
    let t := runWord ((State.reset.setV 0#4 207#8).setI 0x300#16) 0xF033
    let u := runWord ((State.reset.setV 0#4 123#8).setI 0xFFE#16) 0xF033
    (t.memRead 0x300, t.memRead 0x301, t.memRead 0x302, t.i) = (2#8, 0#8, 7#8, 0x300#16) ∧
    (u.memRead 0xFFE, u.memRead 0xFFF, u.memRead 0x000) = (1#8, 2#8, 3#8) := by decide
theorem test_store_registers :  -- M9
    let t := runWord ((((v12 2#8 3#8).setV 3#4 4#8).setI 0x300#16).memWrite 0x304 0xEE#8) 0xF355
    (t.memRead 0x300, t.memRead 0x301, t.memRead 0x303, t.memRead 0x304, t.i) =
      (0#8, 2#8, 4#8, 0xEE#8, 0x300#16) := by decide
theorem test_load_registers :  -- M12
    let t := runWord (((((State.reset.setI 0x300#16).memWrite 0x300 9#8).memWrite 0x303 6#8).memWrite 0x304 5#8).setV 4#4 0x44#8)
      0xF365
    (t.getV 0#4, t.getV 3#4, t.getV 4#4, t.i) = (9#8, 6#8, 0x44#8, 0x300#16) := by decide

/-! ### Host operations and reset (vectors H1 to H10) -/

theorem test_batch_that_halts_keeps_timers :  -- H1
    let t := stateOf (runBatch 5 ((load [0x00#8, 0xEE#8] State.reset).1.setDelay 5#8))
    (t.mode, t.halt, t.delay) = (.halted, some ⟨.stackUnderflow, 0x200#16, 0x00EE#16⟩, 5#8) := by decide
theorem test_step_before_load :  -- H7
    let t := stateOf (step State.reset)
    (t.pc, t.diag) = (0x202#16, [⟨0x200#16, 0x0000#16⟩]) := by decide
theorem test_self_modifying_store :  -- H10
    let t := stateOf (runSteps 5
      (load [0xA2#8, 0x06#8, 0x60#8, 0x61#8, 0xF0#8, 0x55#8, 0x00#8, 0x77#8, 0x12#8, 0x08#8] State.reset).1)
    (t.memRead 0x206, t.getV 1#4, t.getV 0#4, t.pc, t.diag) = (0x61#8, 0x77#8, 0x61#8, 0x208#16, []) := by decide
theorem test_font_in_memory :  -- R57
    (State.reset.memRead 0x050, State.reset.memRead 0x082, State.reset.memRead 0x09F, State.reset.memRead 0x0A0) =
      (0xF0#8, 0xF0#8, 0x80#8, 0x00#8) := by decide
theorem test_error_codes :  -- R210
    [ErrorCause.decodeError, .stackOverflow, .stackUnderflow, .romTooLarge].map ErrorCause.code = [1, 2, 3, 4] := by decide
theorem test_clear_diag :  -- H9
    (clearDiag (runWord State.reset 0x00E1)).diag = [] ∧ (runWord State.reset 0x00E1).diag = [⟨0x200#16, 0x00E1#16⟩] := by
  decide

/-! ### Witnesses: for each statement with hypotheses, states and operands that meet them, at the bounds of each clause -/

/-- The state with the word `w` at PC, Running. -/
def placed (s : State) (w : Nat) : State := s.withFetchWord 16 w

/-- Halted by a RET on the empty stack. -/
def stopped : State := runWord State.reset 0x00EE

/-- Waiting for a key into V3. -/
def waiting : State := runWord State.reset 0xF30A

/-- `n` bytes of 1. -/
def bytes (n : Nat) : List Byte := List.replicate n 1#8

theorem bytes_length (n : Nat) : (bytes n).length = n := List.length_replicate

theorem witness_DecodeIsTheOpcodeMap :
    ((0x000#12 : Addr) ≠ 0x0E0#12 ∧ (0x000#12 : Addr) ≠ 0x0EE#12) ∧ ((0x0EF#12 : Addr) ≠ 0x0E0#12 ∧ (0x0EF#12 : Addr) ≠ 0x0EE#12) ∧
    (0x1#4 : Nibble) ≠ 0x0#4 ∧ (0xF#4 : Nibble) ≠ 0x0#4 ∧
    0x8#4 ∈ [0x8#4, 0x9#4, 0xA#4, 0xB#4, 0xC#4, 0xD#4, 0xF#4] ∧ 0xF#4 ∈ [0x8#4, 0x9#4, 0xA#4, 0xB#4, 0xC#4, 0xD#4, 0xF#4] ∧
    0x9F#8 ∉ [0x9E#8, 0xA1#8] ∧ 0xA0#8 ∉ [0x9E#8, 0xA1#8] ∧
    0x00#8 ∉ [0x07#8, 0x0A#8, 0x15#8, 0x18#8, 0x1E#8, 0x29#8, 0x33#8, 0x55#8, 0x65#8] ∧
    0x66#8 ∉ [0x07#8, 0x0A#8, 0x15#8, 0x18#8, 0x1E#8, 0x29#8, 0x33#8, 0x55#8, 0x65#8] := by decide
theorem witness_DecodeOfEncodeIsTheInstruction :
    (Instr.sys 0x0E1#12).wf = true ∧ (Instr.sys 0xFFF#12).wf = true ∧ Instr.cls.wf = true ∧ (Instr.drw 0xF#4 0#4 0xF#4).wf = true := by
  decide
theorem witness_EncodeOfDecodeIsTheWord : decode 0x0000#16 = .ok (.sys 0#12) ∧ decode 0xFF65#16 = .ok (.ldVxMem 0xF#4) := by decide
theorem witness_DecodedWordMatchesItsRow : decode 0x00E0#16 = .ok .cls ∧ decode 0x9FF0#16 = .ok (.sneReg 0xF#4 0xF#4) := by decide
theorem witness_StepRunsTheDecodedInstruction :  -- in the middle of memory, and across its top
    let s := placed State.reset 0x6A12
    let u := placed (State.reset.setPc 0xFFF#16) 0x6A12
    s.mode = .running ∧ decode (s.memRead s.pc.toNat ++ s.memRead (s.pc.toNat + 1)) = .ok (.ldImm 0xA#4 0x12#8) ∧
    u.mode = .running ∧ decode (u.memRead u.pc.toNat ++ u.memRead (u.pc.toNat + 1)) = .ok (.ldImm 0xA#4 0x12#8) := by decide
theorem witness_IllegalWordIsADecodeError :  -- an unlisted word, a SYS word, either policy
    let s := placed State.reset 0xFFFF
    let u := placed strict 0x0000
    s.mode = .running ∧ 0xFFFF#16 = s.memRead s.pc.toNat ++ s.memRead (s.pc.toNat + 1) ∧
    decode 0xFFFF#16 = .error (.groupF 0xFF#8) ∧ s.cfg.decodeErrorPolicy = .skip ∧
    u.mode = .running ∧ 0x0000#16 = u.memRead u.pc.toNat ++ u.memRead (u.pc.toNat + 1) ∧
    decode 0x0000#16 = .ok (.sys 0#12) ∧ u.cfg.decodeErrorPolicy = .halt := by decide
theorem witness_StepIdlesOutsideRunning : waiting.mode = .awaitingKey ∧ stopped.mode = .halted := by decide
theorem witness_StepWritesOnlyWhatItsInstructionMay :
    decode (placed State.reset 0xFF55).fetchWord = .ok (.ldMemVx 0xF#4) ∧
    step (placed State.reset 0xFF55) = .next (runWord State.reset 0xFF55) := ⟨by decide, rfl⟩
theorem witness_FatalStepLeavesTheStateBeforeIt :  -- each of the three causes
    ((placed State.reset 0x00EE).mode = .running ∧ step (placed State.reset 0x00EE) = .next stopped ∧ stopped.mode = .halted) ∧
    ((placed (nested 16) 0x2ABC).mode = .running ∧ step (placed (nested 16) 0x2ABC) = .next (runWord (nested 16) 0x2ABC) ∧
      (runWord (nested 16) 0x2ABC).mode = .halted) ∧
    ((placed strict 0x0001).mode = .running ∧ step (placed strict 0x0001) = .next (runWord strict 0x0001) ∧
      (runWord strict 0x0001).mode = .halted) :=
  ⟨⟨by decide, rfl, by decide⟩, ⟨by decide, rfl, by decide⟩, ⟨by decide, rfl, by decide⟩⟩
theorem witness_StepKeepsTheInvariant :
    CoreInv (placed State.reset 0xFF55) ∧ step (placed State.reset 0xFF55) = .next (runWord State.reset 0xFF55) :=
  ⟨⟨by decide, by decide, by decide, by decide⟩, rfl⟩
theorem witness_HostOperationsKeepTheInvariant :
    CoreInv waiting ∧ perform (.setKey 15 true) waiting = .next ⟨stateOf (setKey 15 true waiting), .nothing⟩ :=
  ⟨⟨by decide, by decide, by decide, by decide⟩, rfl⟩
theorem witness_SysIsADecodeError :
    ((0x0E1#12 : Addr) ≠ 0x0E0#12 ∧ (0x0E1#12 : Addr) ≠ 0x0EE#12) ∧ State.reset.cfg.decodeErrorPolicy = .skip ∧
    strict.cfg.decodeErrorPolicy = .halt := by decide
theorem witness_RetPopsTheReturnAddress :
    (nested 1).stack = [] ++ [0x300#16] ∧ (nested 16).stack = List.replicate 15 0x300#16 ++ [0x300#16] ∧ State.reset.stack = [] := by
  decide
theorem witness_CallPushesTheReturnAddress : State.reset.sp < 16 ∧ (nested 15).sp < 16 ∧ (nested 16).sp = 16 := by decide
theorem witness_SkipsOnImmediate : (v12 7#8 8#8).getV 1#4 = 7#8 ∧ (v12 7#8 8#8).getV 2#4 ≠ 7#8 := by decide
theorem witness_SkipsOnRegisters :
    (v12 7#8 7#8).getV 1#4 = (v12 7#8 7#8).getV 2#4 ∧ (v12 7#8 8#8).getV 1#4 ≠ (v12 7#8 8#8).getV 2#4 := by decide
theorem witness_NestedCallsReturn :
    State.reset.sp + (List.replicate 16 (0x300#12 : Addr)).length ≤ 16 ∧ (nested 15).sp + [(0xFFF#12 : Addr)].length ≤ 16 := by decide
theorem witness_AddSetsTheCarry :
    (0xE#4 : Reg) ≠ 0xF#4 ∧ 255 < ((v12 255#8 1#8).getV 1#4).toNat + ((v12 255#8 1#8).getV 2#4).toNat ∧
    ((v12 255#8 0#8).getV 1#4).toNat + ((v12 255#8 0#8).getV 2#4).toNat ≤ 255 := by decide
theorem witness_SubtractionsSetStrictlyGreater :
    (0xE#4 : Reg) ≠ 0xF#4 ∧ ((v12 8#8 7#8).getV 2#4).toNat < ((v12 8#8 7#8).getV 1#4).toNat ∧
    ((v12 7#8 7#8).getV 1#4).toNat ≤ ((v12 7#8 7#8).getV 2#4).toNat ∧
    ((v12 7#8 8#8).getV 1#4).toNat < ((v12 7#8 8#8).getV 2#4).toNat := by decide
theorem witness_ShiftsSetTheBitShiftedOut : (0x0#4 : Reg) ≠ 0xF#4 ∧ (0xE#4 : Reg) ≠ 0xF#4 := by decide
theorem witness_LogicalOperations : 0 < 8 ∧ 7 < 8 := by decide  -- the lowest and the highest bit
theorem witness_ClsClearsEveryPixel : (0 < 64 ∧ 0 < 32) ∧ (63 < 64 ∧ 31 < 32) := by decide  -- the first and the last pixel
theorem witness_RandomByteIsMasked : (0x7F#8 : Byte).getLsbD 7 = false ∧ (0xFE#8 : Byte).getLsbD 0 = false := by decide
/-- Glyph 0 at the top left: its corner pixel is covered, the next row's second pixel is not. -/
theorem glyph0_covers : SpriteCovers (State.reset.setI 0x050#16) 0#4 0#4 5#4 0 0 := ⟨0, 0, by decide, by decide, by decide, rfl, rfl⟩
theorem witness_DrawTogglesTheCoveredPixels :  -- covered and dark, covered and lit, not covered; the last column and row
    SpriteCovers (State.reset.setI 0x050#16) 0#4 0#4 5#4 0 0 ∧
    (¬ ∃ px py : Nat, SpriteCovers State.reset 0#4 0#4 0#4 px py ∧ State.reset.pixel px py = true) ∧
    ¬ SpriteCovers State.reset 0#4 0#4 0#4 63 31 ∧
    (∃ px py : Nat, SpriteCovers (runWord (State.reset.setI 0x050#16) 0xD005) 0#4 0#4 5#4 px py ∧
      (runWord (State.reset.setI 0x050#16) 0xD005).pixel px py = true) :=
  ⟨glyph0_covers, fun ⟨_, _, ⟨_, _, h, _⟩, _⟩ => Nat.not_lt_zero _ h, fun ⟨_, _, h, _⟩ => Nat.not_lt_zero _ h,
    0, 0, ⟨0, 0, by decide, by decide, by decide, by decide, by decide⟩, by decide⟩
theorem witness_DrawingTwiceRestoresTheDisplay :
    let s := State.reset.setI 0x050#16
    exec (.drw 0#4 0#4 5#4) s = .next (stateOf (exec (.drw 0#4 0#4 5#4) s)) ∧
    (stateOf (exec (.drw 0#4 0#4 5#4) s)).getV 0#4 = s.getV 0#4 := ⟨rfl, by decide⟩
theorem witness_KeySkips :
    ((v12 15#8 16#8).getV 1#4).toNat < 16 ∧ 16 ≤ ((v12 15#8 16#8).getV 2#4).toNat ∧ 16 ≤ ((v12 255#8 0#8).getV 1#4).toNat := by decide
theorem witness_KeyWaitHoldsUntilAPress :
    (placed State.reset 0xF30A).mode = .running ∧ (placed State.reset 0xF30A).fetchWord = 0xF#4 ++ 3#4 ++ 0x0A#8 ∧ 15 < 16 ∧ 0 < 16 := by decide
theorem witness_RegistersAreStored : (0x0#4 : Reg).toNat ≤ (0x0#4 : Reg).toNat ∧ (0xF#4 : Reg).toNat ≤ (0xF#4 : Reg).toNat := by decide
theorem witness_RegistersAreLoaded : (0x0#4 : Reg).toNat ≤ (0x0#4 : Reg).toNat ∧ (0x3#4 : Reg).toNat ≤ (0x3#4 : Reg).toNat := by decide
theorem witness_StoreThenLoadRestoresRegisters :
    let s := (v12 5#8 6#8).setI 0xFFF#16
    let t := stateOf (exec (.ldMemVx 2#4) s)
    exec (.ldMemVx 2#4) s = .next t ∧ (∀ k ≤ (2#4 : Reg).toNat, (t.setV 1#4 0#8).memRead (t.i.toNat + k) = t.memRead (t.i.toNat + k)) ∧
    (t.setV 1#4 0#8).i = t.i := ⟨rfl, fun _ _ => rfl, rfl⟩
theorem witness_StoredWordIsFetched :
    let s := (v12 0x61#8 0x77#8).setI 0xFFF#16
    exec (.ldMemVx 2#4) s = .next (stateOf (exec (.ldMemVx 2#4) s)) ∧ (1#4 : Reg).toNat < (2#4 : Reg).toNat ∧
    (0x000#16 : Word).toNat % 4096 = (s.i.toNat + (1#4 : Reg).toNat) % 4096 := ⟨rfl, by decide, by decide⟩
theorem witness_CanonicalMemoryIsUnique :
    Memory.wf defaultFont [(0x200, 1#8), (0xFFF, 2#8)] = true ∧
    (∀ a < 4096, Memory.read defaultFont [(0x200, 1#8), (0xFFF, 2#8)] a = Memory.read defaultFont [(0x200, 1#8), (0xFFF, 2#8)] a) :=
  ⟨by decide, fun _ _ => rfl⟩
theorem witness_LoadResetsTheMachine :
    (bytes 3584).length ≤ 3584 ∧ 3583 < (bytes 3584).length ∧ ([] : List Byte).length ≤ 3584 ∧
    ¬ (0x050 ≤ 0x04F ∧ 0x04F < 0x0A0) ∧ ¬ (0x200 ≤ 0x04F ∧ 0x04F < 0x200 + 2) ∧
    ¬ (0x050 ≤ 0x202 ∧ 0x202 < 0x0A0) ∧ ¬ (0x200 ≤ 0x202 ∧ 0x202 < 0x200 + 2) := by
  simp only [bytes_length]; decide
theorem witness_OversizeRomByPolicy :
    (bytes 3584).length ≤ 3584 ∧ 3584 < (bytes 3585).length ∧ State.reset.cfg.romOversizePolicy = .reject ∧
    (State.powerOn { standardConfig with romOversizePolicy := .truncate }).cfg.romOversizePolicy = .truncate := by
  simp only [bytes_length]; decide
theorem witness_SetKeyWritesTheLatch :
    15 < 16 ∧ 15 < 16 ∧ waiting.mode = .awaitingKey ∧ State.reset.mode ≠ .awaitingKey ∧ (0 : Nat) ≠ 15 := by decide
theorem witness_BatchIsStepsThenOneDecrement :  -- a run that halts, one that does not
    Host.Core.run Sys2Proof.core 1 (placed State.reset 0x00EE) = Host.Outcome.next stopped ∧ stopped.mode = .halted ∧
    Host.Core.run Sys2Proof.core 0 State.reset = Host.Outcome.next State.reset ∧ State.reset.mode ≠ .halted :=
  ⟨rfl, by decide, rfl, by decide⟩
theorem witness_BatchKeepsKeysAndParameters : runBatch 1 (placed State.reset 0x00E0) = .next (stateOf (runBatch 1 (placed State.reset 0x00E0))) := rfl
theorem witness_HaltedIsAbsorbing :
    ¬ Safe stopped ∧ perform (.load []) stopped = .next ⟨(load [] stopped).1, .loadResult .ok⟩ ∧ Safe (load [] stopped).1 :=
  ⟨fun h => h (by decide), rfl, by unfold Safe; decide⟩
theorem witness_ModeTransitions :  -- each of the four rows of R30's table
    (perform (.load []) stopped = .next ⟨(load [] stopped).1, .loadResult .ok⟩ ∧ (load [] stopped).1.mode ≠ stopped.mode) ∧
    (perform (.setKey 15 true) waiting = .next ⟨stateOf (setKey 15 true waiting), .nothing⟩ ∧
      (stateOf (setKey 15 true waiting)).mode ≠ waiting.mode) ∧
    (perform .step (placed State.reset 0x00EE) = .next ⟨stopped, .nothing⟩ ∧ stopped.mode ≠ (placed State.reset 0x00EE).mode) ∧
    (perform .step (placed State.reset 0xF30A) = .next ⟨waiting, .nothing⟩ ∧ waiting.mode ≠ (placed State.reset 0xF30A).mode) :=
  ⟨⟨rfl, by decide⟩, ⟨rfl, by decide⟩, ⟨rfl, by decide⟩, ⟨rfl, by decide⟩⟩
theorem witness_ReadsChangeNothing : (0 < 64 ∧ 0 < 32) ∧ (63 < 64 ∧ 31 < 32) := by decide  -- the first and the last pixel
theorem witness_SoundIsNeverRead : step (placed State.reset 0xF318) = .next (runWord State.reset 0xF318) ∧
    step (placed State.reset 0x00E0) = .next (runWord State.reset 0x00E0) := ⟨rfl, rfl⟩
theorem witness_DrawsMatterOnlyToRandom :
    (∀ (x : Reg) (nn : Byte), decode (placed State.reset 0x00E0).fetchWord ≠ .ok (.rnd x nn)) ∧
    step (placed State.reset 0x00E0) = .next (runWord State.reset 0x00E0) := by
  refine ⟨fun x nn => ?_, rfl⟩
  rw [show decode (placed State.reset 0x00E0).fetchWord = .ok .cls by decide]
  simp

end Sys2Proof.Tests
end

-- ==== Proofs of the family 40_control_flow ====
section

namespace Sys2Proof.Machine

/-! Rules of the skips (R100) and of the two instructions that skip on a byte. -/

/-- A skip whose condition holds moves `PC` past one more word. -/
theorem State.skipIf_pc_of_true (s : State) {c : Bool} (h : c = true) : (s.skipIf c).pc = s.pc + 2#16 := by
  rw [State.skipIf_eq, State.setPc_pc, if_pos h]

/-- A skip whose condition fails leaves `PC` where the fetch put it. -/
theorem State.skipIf_pc_of_false (s : State) {c : Bool} (h : c = false) : (s.skipIf c).pc = s.pc := by
  rw [State.skipIf_eq, State.setPc_pc, if_neg (Bool.eq_false_iff.mp h)]

/-- The frame of a skip: `PC` alone. -/
theorem SameExcept.skipIf {L : List Component} (s : State) (c : Bool) (h : .pc ∈ L) : SameExcept L s (s.skipIf c) := by
  rw [State.skipIf_eq]
  exact SameExcept.setPc s _ h

theorem exec_seImm (x : Reg) (nn : Byte) (s : State) : exec (.seImm x nn) s = .next (s.skipIf (s.getV x == nn)) := rfl

theorem exec_sneImm (x : Reg) (nn : Byte) (s : State) : exec (.sneImm x nn) s = .next (s.skipIf (s.getV x != nn)) := rfl

theorem decode_seImm (x : Reg) (nn : Byte) : decode (formatXNN 0x3#4 x nn) = .ok (.seImm x nn) := by
  simp [decode]

theorem decode_sneImm (x : Reg) (nn : Byte) : decode (formatXNN 0x4#4 x nn) = .ok (.sneImm x nn) := by
  simp [decode]

end Sys2Proof.Machine

open Sys2Proof.Machine

/-- Settles O19: each skip's condition is the equality test of `V[x]` and `nn`, read both ways through the rules of `skipIf`. -/
theorem skipsOnImmediate : Obligations.SkipsOnImmediate := by
  unfold Obligations.SkipsOnImmediate
  intro x nn
  refine ⟨decode_seImm x nn, decode_sneImm x nn, fun s => ⟨⟨_, exec_seImm x nn s, ?seEqual, ?seUnequal, ?seFrame⟩,
    ⟨_, exec_sneImm x nn s, ?sneUnequal, ?sneEqual, ?sneFrame⟩⟩⟩
  case seEqual => exact fun heq => s.skipIf_pc_of_true (beq_iff_eq.mpr heq)
  case seUnequal => exact fun hne => s.skipIf_pc_of_false (beq_eq_false_iff_ne.mpr hne)
  case sneUnequal => exact fun hne => s.skipIf_pc_of_true (bne_iff_ne.mpr hne)
  case sneEqual => exact fun heq => s.skipIf_pc_of_false (bne_eq_false_iff_eq.mpr heq)
  case seFrame | sneFrame => exact .skipIf s _ (List.mem_singleton.mpr rfl)
end

-- ==== Proofs of the family 41_load_arith ====
section

namespace Sys2Proof.Machine

/-! The three addresses written to `I`, as numbers (R73, R134, R153). -/

@[simp] theorem absAddr_toNat (nnn : Addr) : (absAddr nnn).toNat = nnn.toNat :=
  BitVec.toNat_setWidth_of_le (by decide)

/-- `I + V[x]` is reduced to 12 bits, so the 16 bits of `I` hold it. -/
@[simp] theorem State.indexSum_toNat (s : State) (x : Reg) :
    (s.indexSum x).toNat = (s.i.toNat + (s.getV x).toNat) % 4096 := by
  have hlt : maskAddr (s.i.toNat + (s.getV x).toNat) < 2 ^ 16 := Nat.lt_trans (Nat.mod_lt _ (by decide)) (by decide)
  exact (BitVec.toNat_ofNat _ 16).trans (Nat.mod_eq_of_lt hlt)

/-- The highest glyph address is 0x050 + 255 * 5 = 0x54B: no reduction. -/
@[simp] theorem glyphAddr_toNat (g : Byte) : (glyphAddr g).toNat = 0x050 + g.toNat * 5 := by
  have hg : g.toNat < 256 := g.isLt
  have hlt : Config.fontBase + g.toNat * 5 < 2 ^ 16 := by unfold Config.fontBase; omega
  exact (BitVec.toNat_ofNat _ 16).trans (Nat.mod_eq_of_lt hlt)

/-! What the loads, ADD with an immediate and the writers of `I` answer (R121 to R123, R132, R134, R153). -/

theorem exec_ldImm (x : Reg) (nn : Byte) (s : State) : exec (.ldImm x nn) s = .next (s.setV x nn) := rfl

theorem exec_ldReg (x y : Reg) (s : State) : exec (.ldReg x y) s = .next (s.setV x (s.getV y)) := rfl

theorem exec_addImm (x : Reg) (nn : Byte) (s : State) : exec (.addImm x nn) s = .next (s.setV x (s.getV x + nn)) := rfl

theorem exec_ldI (nnn : Addr) (s : State) : exec (.ldI nnn) s = .next (s.setI (absAddr nnn)) := rfl

theorem exec_addI (x : Reg) (s : State) : exec (.addI x) s = .next (s.setI (s.indexSum x)) := rfl

theorem exec_ldF (x : Reg) (s : State) : exec (.ldF x) s = .next (s.setI (glyphAddr (s.getV x))) := rfl

/-! The words of these instructions (R74, R75). -/

theorem decode_ldImm (x : Reg) (nn : Byte) : decode (formatXNN 0x6#4 x nn) = .ok (.ldImm x nn) := by
  simp [decode]

theorem decode_addImm (x : Reg) (nn : Byte) : decode (formatXNN 0x7#4 x nn) = .ok (.addImm x nn) := by
  simp [decode]

theorem decode_ldReg (x y : Reg) : decode (formatXYN 0x8#4 x y 0x0#4) = .ok (.ldReg x y) := by
  simp [decode, decode8]

theorem decode_ldI (nnn : Addr) : decode (formatNNN 0xA#4 nnn) = .ok (.ldI nnn) := by
  simp [decode]

theorem decode_addI (x : Reg) : decode (formatXNN 0xF#4 x 0x1E#8) = .ok (.addI x) := by
  simp [decode, decodeF]

theorem decode_ldF (x : Reg) : decode (formatXNN 0xF#4 x 0x29#8) = .ok (.ldF x) := by
  simp [decode, decodeF]

end Sys2Proof.Machine

open Sys2Proof.Machine

/-- Settles O22: both loads are one `setV` of the byte, whose frame is `V[x]` alone. -/
theorem registerLoads : Obligations.RegisterLoads := by
  unfold Obligations.RegisterLoads
  refine ⟨fun x nn => ⟨decode_ldImm x nn, fun s => ⟨_, exec_ldImm x nn s, ?immediate, ?immFrame⟩⟩,
    fun x y => ⟨decode_ldReg x y, fun s => ⟨_, exec_ldReg x y s, ?register, ?regFrame⟩⟩⟩
  case immediate | register => exact s.setV_getV_self x _
  case immFrame | regFrame => exact .setV s x _ (List.mem_singleton.mpr rfl)

/-- Settles O23: the sum of two bytes is the sum of their values modulo 256, and `setV` writes `V[x]` alone. -/
theorem addImmediateWrapsWithoutFlag : Obligations.AddImmediateWrapsWithoutFlag := by
  unfold Obligations.AddImmediateWrapsWithoutFlag
  intro x nn
  refine ⟨decode_addImm x nn, fun s => ⟨_, exec_addImm x nn s, ?sum, ?frame⟩⟩
  case sum => rw [s.setV_getV_self, BitVec.toNat_add]
  case frame => exact .setV s x _ (List.mem_singleton.mpr rfl)

/-- Settles O28: each of the three is one `setI` of an address whose value the lemmas above give, and its frame is `I` alone. -/
theorem indexRegisterWrites : Obligations.IndexRegisterWrites := by
  unfold Obligations.IndexRegisterWrites
  refine ⟨fun nnn => ⟨decode_ldI nnn, fun s => ⟨_, exec_ldI nnn s, ?absolute, ?ldIFrame⟩⟩,
    fun x => ⟨decode_addI x, fun s => ⟨_, exec_addI x s, ?indexSum, ?addIFrame⟩⟩,
    fun x => ⟨decode_ldF x, fun s => ⟨_, exec_ldF x s, ?glyph, ?ldFFrame⟩⟩⟩
  case absolute => exact absAddr_toNat nnn
  case indexSum => exact s.indexSum_toNat x
  case glyph => exact glyphAddr_toNat (s.getV x)
  case ldIFrame | addIFrame | ldFFrame => exact .setI s _ (List.mem_singleton.mpr rfl)
end

-- ==== Proofs of the family 42_display ====
section

namespace Sys2Proof.Machine

/-- A pixel after the whole display is replaced is read from the new bit plane. -/
@[simp] theorem State.setDisplay_pixel (s : State) (d : Bitmap) (px py : Nat) :
    (s.setDisplay d).pixel px py = pixelAt d px py := rfl

theorem exec_cls (s : State) : exec .cls s = .next (s.setDisplay Bitmap.blank) := rfl

theorem decode_cls : decode 0x00E0#16 = .ok .cls := by decide

end Sys2Proof.Machine

open Sys2Proof.Machine

/-- Settles O30: CLS is one `setDisplay` of the blank bit plane, no pixel of which is lit, and its frame is the display alone. -/
theorem clsClearsEveryPixel : Obligations.ClsClearsEveryPixel := by
  unfold Obligations.ClsClearsEveryPixel
  refine ⟨decode_cls, fun s => ⟨_, exec_cls s, ?dark, ?frame⟩⟩
  case dark =>
    intro px py _ _
    rw [State.setDisplay_pixel, blank_pixel]
  case frame => exact .setDisplay s _ (List.mem_singleton.mpr rfl)
end

-- ==== Proofs of the family 44_memory_transfer ====
section

namespace Sys2Proof.Machine

/-- The byte `k` places into a written list is read `k` places above its first address, across the top of memory too (R51). -/
theorem State.memWriteBytes_memRead_offset (s : State) (a : Nat) (l : List Byte) (hl : l.length ≤ 4096)
    (k : Nat) (hk : k < l.length) : (s.memWriteBytes a l).memRead (a + k) = l[k] := by
  have hplace : (a + k + (4096 - a % 4096)) % 4096 = k := by omega
  rw [State.memWriteBytes_memRead s a l hl, hplace, List.getD_eq_getElem _ _ hk]

/-! The digits of a byte, as numbers (R190): each is at most 9, so a byte holds it. -/

theorem hundreds_toNat (b : Byte) : (hundreds b).toNat = b.toNat / 100 :=
  (BitVec.toNat_ofNat _ 8).trans (Nat.mod_eq_of_lt (Nat.lt_of_le_of_lt (Nat.div_le_self _ _) b.isLt))

theorem tens_toNat (b : Byte) : (tens b).toNat = b.toNat / 10 % 10 :=
  (BitVec.toNat_ofNat _ 8).trans (Nat.mod_eq_of_lt (Nat.lt_trans (Nat.mod_lt _ (by decide)) (by decide)))

theorem ones_toNat (b : Byte) : (ones b).toNat = b.toNat % 10 :=
  (BitVec.toNat_ofNat _ 8).trans (Nat.mod_eq_of_lt (Nat.lt_trans (Nat.mod_lt _ (by decide)) (by decide)))

theorem exec_ldB (x : Reg) (s : State) :
    exec (.ldB x) s = .next (s.memWriteBytes (s.atI 0) [hundreds (s.getV x), tens (s.getV x), ones (s.getV x)]) := rfl

theorem decode_ldB (x : Reg) : decode (formatXNN 0xF#4 x 0x33#8) = .ok (.ldB x) := by
  simp [decode, decodeF]

end Sys2Proof.Machine

open Sys2Proof.Machine

/-- Settles O37: LD B writes the list of the three digits from `I` up, so each digit is read at its offset and the frame is
those three bytes. -/
theorem decimalDigitsAreStored : Obligations.DecimalDigitsAreStored := by
  unfold Obligations.DecimalDigitsAreStored
  intro x
  refine ⟨decode_ldB x, fun s => ⟨_, exec_ldB x s, ?_⟩⟩
  have hread := s.memWriteBytes_memRead_offset (s.atI 0)
    [hundreds (s.getV x), tens (s.getV x), ones (s.getV x)] (by simp)
  refine ⟨?hundreds, ?tens, ?ones, ?frame⟩
  case hundreds => exact (congrArg BitVec.toNat (hread 0 (by simp))).trans (hundreds_toNat _)
  case tens => exact (congrArg BitVec.toNat (hread 1 (by simp))).trans (tens_toNat _)
  case ones => exact (congrArg BitVec.toNat (hread 2 (by simp))).trans (ones_toNat _)
  case frame =>
    refine .memWriteBytes s _ _ fun k hk => ?_
    match k, hk with
    | 0, _ | 1, _ | 2, _ => simp [State.atI]
end

-- ==== Proofs of the family other ====
section

namespace Sys2Proof.Machine

/-! ### The words of the instructions (R74, R75)

One equation per row of the opcode map that the families before did not need. -/

theorem decode_ret : decode 0x00EE#16 = .ok .ret := by decide

/-- A word of group 0 is SYS unless it is the word of CLS or RET, which take precedence (R75). -/
theorem decode_sys {nnn : Addr} (hcls : nnn ≠ 0x0E0#12) (hret : nnn ≠ 0x0EE#12) :
    decode (formatNNN 0x0#4 nnn) = .ok (.sys nnn) := by
  have hne (m : Addr) (hm : nnn ≠ m) : formatNNN 0x0#4 nnn ≠ formatNNN 0x0#4 m :=
    fun he => hm (by simpa using congrArg nnnOf he)
  have h0 : formatNNN 0x0#4 nnn ≠ 0x00E0#16 := hne 0x0E0#12 hcls
  have hE : formatNNN 0x0#4 nnn ≠ 0x00EE#16 := hne 0x0EE#12 hret
  simp [decode, decode0, h0, hE]

theorem decode_jp (nnn : Addr) : decode (formatNNN 0x1#4 nnn) = .ok (.jp nnn) := by simp [decode]

theorem decode_call (nnn : Addr) : decode (formatNNN 0x2#4 nnn) = .ok (.call nnn) := by simp [decode]

theorem decode_jpV0 (nnn : Addr) : decode (formatNNN 0xB#4 nnn) = .ok (.jpV0 nnn) := by simp [decode]

theorem decode_rnd (x : Reg) (nn : Byte) : decode (formatXNN 0xC#4 x nn) = .ok (.rnd x nn) := by simp [decode]

theorem decode_drw (x y : Reg) (n : Nibble) : decode (formatXYN 0xD#4 x y n) = .ok (.drw x y n) := by simp [decode]

theorem decode_seReg (x y : Reg) : decode (formatXYN 0x5#4 x y 0x0#4) = .ok (.seReg x y) := by simp [decode, decode5]

theorem decode_sneReg (x y : Reg) : decode (formatXYN 0x9#4 x y 0x0#4) = .ok (.sneReg x y) := by simp [decode, decode9]

theorem decode_or (x y : Reg) : decode (formatXYN 0x8#4 x y 0x1#4) = .ok (.or x y) := by simp [decode, decode8]

theorem decode_and (x y : Reg) : decode (formatXYN 0x8#4 x y 0x2#4) = .ok (.and x y) := by simp [decode, decode8]

theorem decode_xor (x y : Reg) : decode (formatXYN 0x8#4 x y 0x3#4) = .ok (.xor x y) := by simp [decode, decode8]

theorem decode_addReg (x y : Reg) : decode (formatXYN 0x8#4 x y 0x4#4) = .ok (.addReg x y) := by simp [decode, decode8]

theorem decode_sub (x y : Reg) : decode (formatXYN 0x8#4 x y 0x5#4) = .ok (.sub x y) := by simp [decode, decode8]

theorem decode_shr (x y : Reg) : decode (formatXYN 0x8#4 x y 0x6#4) = .ok (.shr x y) := by simp [decode, decode8]

theorem decode_subn (x y : Reg) : decode (formatXYN 0x8#4 x y 0x7#4) = .ok (.subn x y) := by simp [decode, decode8]

theorem decode_shl (x y : Reg) : decode (formatXYN 0x8#4 x y 0xE#4) = .ok (.shl x y) := by simp [decode, decode8]

theorem decode_skp (x : Reg) : decode (formatXNN 0xE#4 x 0x9E#8) = .ok (.skp x) := by simp [decode, decodeE]

theorem decode_sknp (x : Reg) : decode (formatXNN 0xE#4 x 0xA1#8) = .ok (.sknp x) := by simp [decode, decodeE]

theorem decode_ldVxDt (x : Reg) : decode (formatXNN 0xF#4 x 0x07#8) = .ok (.ldVxDt x) := by simp [decode, decodeF]

theorem decode_ldVxK (x : Reg) : decode (formatXNN 0xF#4 x 0x0A#8) = .ok (.ldVxK x) := by simp [decode, decodeF]

theorem decode_ldDtVx (x : Reg) : decode (formatXNN 0xF#4 x 0x15#8) = .ok (.ldDtVx x) := by simp [decode, decodeF]

theorem decode_ldStVx (x : Reg) : decode (formatXNN 0xF#4 x 0x18#8) = .ok (.ldStVx x) := by simp [decode, decodeF]

theorem decode_ldMemVx (x : Reg) : decode (formatXNN 0xF#4 x 0x55#8) = .ok (.ldMemVx x) := by simp [decode, decodeF]

theorem decode_ldVxMem (x : Reg) : decode (formatXNN 0xF#4 x 0x65#8) = .ok (.ldVxMem x) := by simp [decode, decodeF]

/-! The unlisted patterns of the five groups that have some (R75, D11). -/

theorem decode_group5_unlisted (x y : Reg) {n : Nibble} (hn : n ≠ 0x0#4) :
    decode (formatXYN 0x5#4 x y n) = .error (.group5 n) := by simp [decode, decode5, hn]

theorem decode_group9_unlisted (x y : Reg) {n : Nibble} (hn : n ≠ 0x0#4) :
    decode (formatXYN 0x9#4 x y n) = .error (.group9 n) := by simp [decode, decode9, hn]

theorem decode_group8_unlisted (x y : Reg) {n : Nibble} (hn : n ∈ [0x8#4, 0x9#4, 0xA#4, 0xB#4, 0xC#4, 0xD#4, 0xF#4]) :
    decode (formatXYN 0x8#4 x y n) = .error (.group8 n) := by
  simp only [List.mem_cons, List.not_mem_nil, or_false] at hn
  rcases hn with rfl | rfl | rfl | rfl | rfl | rfl | rfl <;> simp [decode, decode8]

theorem decode_groupE_unlisted (x : Reg) {nn : Byte} (hnn : nn ∉ [0x9E#8, 0xA1#8]) :
    decode (formatXNN 0xE#4 x nn) = .error (.groupE nn) := by
  simp only [decode, opOf_formatXNN, decodeE, nnOf_formatXNN]
  split <;> simp_all

theorem decode_groupF_unlisted (x : Reg) {nn : Byte}
    (hnn : nn ∉ [0x07#8, 0x0A#8, 0x15#8, 0x18#8, 0x1E#8, 0x29#8, 0x33#8, 0x55#8, 0x65#8]) :
    decode (formatXNN 0xF#4 x nn) = .error (.groupF nn) := by
  simp only [decode, opOf_formatXNN, decodeF, nnOf_formatXNN]
  split <;> simp_all

/-! ### A word that decodes is the word of its instruction -/

/-- What it means that `i` stands for the word `w`: `i` is well formed and its word is `w`. -/
def Spells (i : Instr) (w : Word) : Prop := i.wf = true ∧ encode i = w

theorem formatNNN_of_op {w : Word} {op : Nibble} (hop : opOf w = op) : formatNNN op (nnnOf w) = w := by
  rw [← hop, formatNNN_fields]

theorem formatXNN_of_op {w : Word} {op : Nibble} (hop : opOf w = op) : formatXNN op (xOf w) (nnOf w) = w := by
  rw [← hop, formatXNN_fields]

theorem formatXNN_of_op_nn {w : Word} {op : Nibble} {nn : Byte} (hop : opOf w = op) (hnn : nnOf w = nn) :
    formatXNN op (xOf w) nn = w := by
  rw [← hnn, formatXNN_of_op hop]

theorem formatXYN_of_op {w : Word} {op : Nibble} (hop : opOf w = op) : formatXYN op (xOf w) (yOf w) (nOf w) = w := by
  rw [← hop, formatXYN_fields]

theorem formatXYN_of_op_n {w : Word} {op n : Nibble} (hop : opOf w = op) (hn : nOf w = n) :
    formatXYN op (xOf w) (yOf w) n = w := by
  rw [← hn, formatXYN_of_op hop]

/-- Group 0: SYS is answered only where the word is neither that of CLS nor that of RET. -/
theorem decode0_spells {w : Word} {i : Instr} (hop : opOf w = 0x0#4) (h : decode0 w = .ok i) : Spells i w := by
  have hw : formatNNN 0x0#4 (nnnOf w) = w := formatNNN_of_op hop
  unfold decode0 at h
  split at h
  case isTrue hcls => cases h; exact ⟨rfl, hcls.symm⟩
  case isFalse hcls =>
    split at h
    case isTrue hret => cases h; exact ⟨rfl, hret.symm⟩
    case isFalse hret =>
      cases h
      have h0 : nnnOf w ≠ 0x0E0#12 := fun e => hcls (by rw [← hw, e]; rfl)
      have hE : nnnOf w ≠ 0x0EE#12 := fun e => hret (by rw [← hw, e]; rfl)
      exact ⟨by simp [Instr.wf, h0, hE], hw⟩

theorem decode5_spells {w : Word} {i : Instr} (hop : opOf w = 0x5#4) (h : decode5 w = .ok i) : Spells i w := by
  unfold decode5 at h
  split at h <;> cases h
  rename_i hn
  exact ⟨rfl, formatXYN_of_op_n hop hn⟩

theorem decode8_spells {w : Word} {i : Instr} (hop : opOf w = 0x8#4) (h : decode8 w = .ok i) : Spells i w := by
  unfold decode8 at h
  split at h <;> cases h
  all_goals
    rename_i hn
    exact ⟨rfl, formatXYN_of_op_n hop hn⟩

theorem decode9_spells {w : Word} {i : Instr} (hop : opOf w = 0x9#4) (h : decode9 w = .ok i) : Spells i w := by
  unfold decode9 at h
  split at h <;> cases h
  rename_i hn
  exact ⟨rfl, formatXYN_of_op_n hop hn⟩

theorem decodeE_spells {w : Word} {i : Instr} (hop : opOf w = 0xE#4) (h : decodeE w = .ok i) : Spells i w := by
  unfold decodeE at h
  split at h <;> cases h
  all_goals
    rename_i hnn
    exact ⟨rfl, formatXNN_of_op_nn hop hnn⟩

theorem decodeF_spells {w : Word} {i : Instr} (hop : opOf w = 0xF#4) (h : decodeF w = .ok i) : Spells i w := by
  unfold decodeF at h
  split at h <;> cases h
  all_goals
    rename_i hnn
    exact ⟨rfl, formatXNN_of_op_nn hop hnn⟩

/-- The sixteen groups: no bit of a word that decodes is dropped. -/
theorem decode_spells {w : Word} {i : Instr} (h : decode w = .ok i) : Spells i w := by
  unfold decode at h
  split at h
  case h_1 hop => exact decode0_spells hop h
  case h_6 hop => exact decode5_spells hop h
  case h_9 hop => exact decode8_spells hop h
  case h_10 hop => exact decode9_spells hop h
  case h_15 hop => exact decodeE_spells hop h
  case h_16 =>
    -- the fifteen groups above are excluded, which leaves the nibble F
    have hop : opOf w = 0xF#4 := by
      generalize opOf w = op at *
      revert op
      decide
    exact decodeF_spells hop h
  case h_2 hop | h_3 hop | h_11 hop | h_12 hop => cases h; exact ⟨rfl, formatNNN_of_op hop⟩
  case h_4 hop | h_5 hop | h_7 hop | h_8 hop | h_13 hop => cases h; exact ⟨rfl, formatXNN_of_op hop⟩
  case h_14 hop => cases h; exact ⟨rfl, formatXYN_of_op hop⟩

theorem encode_of_decode {w : Word} {i : Instr} (h : decode w = .ok i) : encode i = w := (decode_spells h).2

/-- Every instruction's word matches its row of the opcode table under the row's mask. -/
theorem encode_matches_row : ∀ i : Instr, encode i &&& (opcodeRow i).2 = (opcodeRow i).1
  | .cls => Laws.EncodeMatchesRow.cls
  | .ret => Laws.EncodeMatchesRow.ret
  | .sys nnn => Laws.EncodeMatchesRow.sys nnn
  | .jp nnn => Laws.EncodeMatchesRow.jp nnn
  | .call nnn => Laws.EncodeMatchesRow.call nnn
  | .seImm x nn => Laws.EncodeMatchesRow.seImm x nn
  | .sneImm x nn => Laws.EncodeMatchesRow.sneImm x nn
  | .seReg x y => Laws.EncodeMatchesRow.seReg x y
  | .ldImm x nn => Laws.EncodeMatchesRow.ldImm x nn
  | .addImm x nn => Laws.EncodeMatchesRow.addImm x nn
  | .ldReg x y => Laws.EncodeMatchesRow.ldReg x y
  | .or x y => Laws.EncodeMatchesRow.or x y
  | .and x y => Laws.EncodeMatchesRow.and x y
  | .xor x y => Laws.EncodeMatchesRow.xor x y
  | .addReg x y => Laws.EncodeMatchesRow.addReg x y
  | .sub x y => Laws.EncodeMatchesRow.sub x y
  | .shr x y => Laws.EncodeMatchesRow.shr x y
  | .subn x y => Laws.EncodeMatchesRow.subn x y
  | .shl x y => Laws.EncodeMatchesRow.shl x y
  | .sneReg x y => Laws.EncodeMatchesRow.sneReg x y
  | .ldI nnn => Laws.EncodeMatchesRow.ldI nnn
  | .jpV0 nnn => Laws.EncodeMatchesRow.jpV0 nnn
  | .rnd x nn => Laws.EncodeMatchesRow.rnd x nn
  | .drw x y n => Laws.EncodeMatchesRow.drw x y n
  | .skp x => Laws.EncodeMatchesRow.skp x
  | .sknp x => Laws.EncodeMatchesRow.sknp x
  | .ldVxDt x => Laws.EncodeMatchesRow.ldVxDt x
  | .ldVxK x => Laws.EncodeMatchesRow.ldVxK x
  | .ldDtVx x => Laws.EncodeMatchesRow.ldDtVx x
  | .ldStVx x => Laws.EncodeMatchesRow.ldStVx x
  | .addI x => Laws.EncodeMatchesRow.addI x
  | .ldF x => Laws.EncodeMatchesRow.ldF x
  | .ldB x => Laws.EncodeMatchesRow.ldB x
  | .ldMemVx x => Laws.EncodeMatchesRow.ldMemVx x
  | .ldVxMem x => Laws.EncodeMatchesRow.ldVxMem x

end Sys2Proof.Machine

/-! ### The encoding: O1 to O5 -/

open Sys2Proof Sys2Proof.Machine

/-- Settles O3: one equation of the opcode map per constructor; well-formedness is used for SYS alone. -/
theorem decodeOfEncodeIsTheInstruction : Obligations.DecodeOfEncodeIsTheInstruction := by
  unfold Obligations.DecodeOfEncodeIsTheInstruction
  intro i hwf
  cases i with
  | cls => exact decode_cls
  | ret => exact decode_ret
  | sys nnn =>
    obtain ⟨hcls, hret⟩ : nnn ≠ 0x0E0#12 ∧ nnn ≠ 0x0EE#12 := by simpa [Instr.wf] using hwf
    exact decode_sys hcls hret
  | jp nnn => exact decode_jp nnn
  | call nnn => exact decode_call nnn
  | seImm x nn => exact decode_seImm x nn
  | sneImm x nn => exact decode_sneImm x nn
  | seReg x y => exact decode_seReg x y
  | ldImm x nn => exact decode_ldImm x nn
  | addImm x nn => exact decode_addImm x nn
  | ldReg x y => exact decode_ldReg x y
  | or x y => exact decode_or x y
  | and x y => exact decode_and x y
  | xor x y => exact decode_xor x y
  | addReg x y => exact decode_addReg x y
  | sub x y => exact decode_sub x y
  | shr x y => exact decode_shr x y
  | subn x y => exact decode_subn x y
  | shl x y => exact decode_shl x y
  | sneReg x y => exact decode_sneReg x y
  | ldI nnn => exact decode_ldI nnn
  | jpV0 nnn => exact decode_jpV0 nnn
  | rnd x nn => exact decode_rnd x nn
  | drw x y n => exact decode_drw x y n
  | skp x => exact decode_skp x
  | sknp x => exact decode_sknp x
  | ldVxDt x => exact decode_ldVxDt x
  | ldVxK x => exact decode_ldVxK x
  | ldDtVx x => exact decode_ldDtVx x
  | ldStVx x => exact decode_ldStVx x
  | addI x => exact decode_addI x
  | ldF x => exact decode_ldF x
  | ldB x => exact decode_ldB x
  | ldMemVx x => exact decode_ldMemVx x
  | ldVxMem x => exact decode_ldVxMem x

/-- Settles O2: the equations of the opcode map, row by row, and its unlisted patterns. -/
theorem decodeIsTheOpcodeMap : Obligations.DecodeIsTheOpcodeMap := by
  unfold Obligations.DecodeIsTheOpcodeMap
  exact ⟨⟨decode_cls, decode_ret⟩,
    fun _ hcls hret => decode_sys hcls hret,
    fun nnn => ⟨decode_jp nnn, decode_call nnn, decode_ldI nnn, decode_jpV0 nnn⟩,
    fun x nn => ⟨decode_seImm x nn, decode_sneImm x nn, decode_ldImm x nn, decode_addImm x nn, decode_rnd x nn⟩,
    fun x y n => decode_drw x y n,
    fun x y => ⟨decode_seReg x y, decode_sneReg x y⟩,
    fun x y _ hn => ⟨⟨_, decode_group5_unlisted x y hn⟩, ⟨_, decode_group9_unlisted x y hn⟩⟩,
    fun x y => ⟨decode_ldReg x y, decode_or x y, decode_and x y, decode_xor x y, decode_addReg x y, decode_sub x y,
      decode_shr x y, decode_subn x y, decode_shl x y⟩,
    fun x y _ hn => ⟨_, decode_group8_unlisted x y hn⟩,
    fun x => ⟨decode_skp x, decode_sknp x⟩,
    fun x _ hnn => ⟨_, decode_groupE_unlisted x hnn⟩,
    fun x => ⟨decode_ldVxDt x, decode_ldVxK x, decode_ldDtVx x, decode_ldStVx x, decode_addI x, decode_ldF x, decode_ldB x,
      decode_ldMemVx x, decode_ldVxMem x⟩,
    fun x _ hnn => ⟨_, decode_groupF_unlisted x hnn⟩⟩

/-- Settles O4, by the group of the word. -/
theorem encodeOfDecodeIsTheWord : Obligations.EncodeOfDecodeIsTheWord := by
  unfold Obligations.EncodeOfDecodeIsTheWord
  exact fun _ _ h => decode_spells h

/-- Settles O5: the word is the encoding of its instruction, and encodings match their rows. -/
theorem decodedWordMatchesItsRow : Obligations.DecodedWordMatchesItsRow := by
  unfold Obligations.DecodedWordMatchesItsRow
  intro w i h
  rw [← encode_of_decode h]
  exact encode_matches_row i

/-- Settles O1: the words are closed, so the decoder computes on each. -/
theorem writtenOutWordsDecode : Obligations.WrittenOutWordsDecode := by
  unfold Obligations.WrittenOutWordsDecode
  decide

namespace Sys2Proof.Machine

/-! ### Raising an error (R211 to R213) -/

theorem State.raise_decodeError_skip {s : State} (hp : s.cfg.decodeErrorPolicy = .skip) (w : Word) :
    s.raise .decodeError w = s.addDiagnostic w := by
  simp [State.raise, ErrorCause.fatal, hp]

theorem State.raise_decodeError_halt {s : State} (hp : s.cfg.decodeErrorPolicy = .halt) (w : Word) :
    s.raise .decodeError w = s.enterHalted .decodeError w := by
  simp [State.raise, ErrorCause.fatal, hp]

/-- The frame of a fatal entry in the state after the fetch. -/
theorem SameExcept.enterHalted {L : List Component} (s : State) (cause : ErrorCause) (w : Word) (hpc : .pc ∈ L)
    (hmode : .mode ∈ L) (hhalt : .halt ∈ L) : SameExcept L s (s.enterHalted cause w) :=
  ((SameExcept.setPc s _ hpc).trans (.setMode _ _ hmode)).trans (.setHalt _ _ hhalt)

/-- The frame of a decode error under either policy. -/
theorem SameExcept.raise_decodeError {L : List Component} (s : State) (w : Word) (hpc : .pc ∈ L)
    (hmode : .mode ∈ L) (hhalt : .halt ∈ L) (hdiag : .diag ∈ L) : SameExcept L s (s.raise .decodeError w) := by
  cases hp : s.cfg.decodeErrorPolicy with
  | skip => rw [State.raise_decodeError_skip hp]; exact .setDiag s _ hdiag
  | halt => rw [State.raise_decodeError_halt hp]; exact .enterHalted s _ w hpc hmode hhalt

theorem fatalDuring_enterHalted (cause : ErrorCause) (w : Word) (s : State) :
    FatalDuring cause w s (s.enterHalted cause w) :=
  ⟨rfl, rfl, rfl, .enterHalted s cause w (by simp) (by simp) (by simp)⟩

/-- The fetch's advance of `PC` writes nothing else. -/
theorem SameExcept.advancePc {L : List Component} (s : State) (h : .pc ∈ L) : SameExcept L s s.advancePc :=
  .setPc s _ h

/-- A decode error raised after the fetch leaves what the policy says of the state before it. -/
theorem decodeErrorLeaves_raise (w : Word) (s : State) : DecodeErrorLeaves w s (s.advancePc.raise .decodeError w) := by
  constructor
  · intro hp
    rw [State.raise_decodeError_skip (s := s.advancePc) hp, State.addDiagnostic, State.advancePc_pc0]
    exact ⟨rfl, rfl, (SameExcept.advancePc s (by simp)).trans (.setDiag _ _ (by simp))⟩
  · intro hp
    rw [State.raise_decodeError_halt (s := s.advancePc) hp, State.advancePc_enterHalted]
    exact ⟨rfl, rfl, (SameExcept.setMode s _ (by simp)).trans (.setHalt _ _ (by simp))⟩

/-! ### What each instruction answers

The equations the families before did not need. RET, CALL and SYS have one for each of their outcomes. -/

theorem exec_sys (nnn : Addr) (s : State) : exec (.sys nnn) s = .next (s.raise .decodeError (encode (.sys nnn))) := rfl

theorem exec_ret_of_append {s : State} {rest : List Word} {w : Word} (h : s.stack = rest ++ [w]) :
    exec .ret s = .next ((s.setStack rest).setPc w) := by
  simp [exec, execRet, State.pop_append h]

theorem exec_ret_of_nil {s : State} (h : s.stack = []) :
    exec .ret s = .next (s.enterHalted .stackUnderflow (encode .ret)) := by
  simp [exec, execRet, State.pop_nil h, State.raise, ErrorCause.fatal]

theorem exec_jp (nnn : Addr) (s : State) : exec (.jp nnn) s = .next (s.setPc (absAddr nnn)) := rfl

theorem exec_call_of_room {s : State} (h : s.sp < 16) (nnn : Addr) :
    exec (.call nnn) s = .next ((s.setStack (s.stack ++ [s.pc])).setPc (absAddr nnn)) := by
  simp [exec, execCall, State.push_eq, h]

theorem exec_call_of_full {s : State} (h : 16 ≤ s.sp) (nnn : Addr) :
    exec (.call nnn) s = .next (s.enterHalted .stackOverflow (encode (.call nnn))) := by
  simp [exec, execCall, State.push_eq, Nat.not_lt.mpr h, State.raise, ErrorCause.fatal]

theorem exec_seReg (x y : Reg) (s : State) : exec (.seReg x y) s = .next (s.skipIf (s.getV x == s.getV y)) := rfl

theorem exec_sneReg (x y : Reg) (s : State) : exec (.sneReg x y) s = .next (s.skipIf (s.getV x != s.getV y)) := rfl

theorem exec_jpV0 (nnn : Addr) (s : State) : exec (.jpV0 nnn) s = .next (s.setPc (s.v0Target nnn)) := rfl

theorem exec_or (x y : Reg) (s : State) : exec (.or x y) s = .next (s.setV x (s.getV x ||| s.getV y)) := rfl

theorem exec_and (x y : Reg) (s : State) : exec (.and x y) s = .next (s.setV x (s.getV x &&& s.getV y)) := rfl

theorem exec_xor (x y : Reg) (s : State) : exec (.xor x y) s = .next (s.setV x (s.getV x ^^^ s.getV y)) := rfl

theorem exec_addReg (x y : Reg) (s : State) : exec (.addReg x y) s =
    .next ((s.setV x (s.getV x + s.getV y)).setFlag (carryOut (s.getV x) (s.getV y))) := rfl

theorem exec_sub (x y : Reg) (s : State) : exec (.sub x y) s =
    .next ((s.setV x (s.getV x - s.getV y)).setFlag (strictlyGreater (s.getV x) (s.getV y))) := rfl

theorem exec_shr (x y : Reg) (s : State) : exec (.shr x y) s =
    .next ((s.setV x (s.getV x >>> 1)).setFlag (lowBit (s.getV x))) := rfl

theorem exec_subn (x y : Reg) (s : State) : exec (.subn x y) s =
    .next ((s.setV x (s.getV y - s.getV x)).setFlag (strictlyGreater (s.getV y) (s.getV x))) := rfl

theorem exec_shl (x y : Reg) (s : State) : exec (.shl x y) s =
    .next ((s.setV x (s.getV x <<< 1)).setFlag (highBit (s.getV x))) := rfl

theorem exec_rnd (x : Reg) (nn : Byte) (s : State) :
    exec (.rnd x nn) s = .next (s.afterDraw.setV x (s.nextRandom &&& nn)) := rfl

theorem exec_drw (x y : Reg) (n : Nibble) (s : State) :
    exec (.drw x y n) s = .next ((s.setDisplay (s.drawn x y n).1).setFlag (s.drawn x y n).2) := rfl

theorem exec_skp (x : Reg) (s : State) : exec (.skp x) s = .next (s.skipIf (s.keyHeld (s.getV x))) := rfl

theorem exec_sknp (x : Reg) (s : State) : exec (.sknp x) s = .next (s.skipIf (!s.keyHeld (s.getV x))) := rfl

theorem exec_ldVxDt (x : Reg) (s : State) : exec (.ldVxDt x) s = .next (s.setV x s.delay) := rfl

theorem exec_ldVxK (x : Reg) (s : State) : exec (.ldVxK x) s = .next ((s.setWaitReg x).setMode .awaitingKey) := rfl

theorem exec_ldDtVx (x : Reg) (s : State) : exec (.ldDtVx x) s = .next (s.setDelay (s.getV x)) := rfl

theorem exec_ldStVx (x : Reg) (s : State) : exec (.ldStVx x) s = .next (s.setSound (s.getV x)) := rfl

theorem exec_ldMemVx (x : Reg) (s : State) : exec (.ldMemVx x) s = .next (s.storeRegs (s.atI 0) (x.toNat + 1)) := rfl

theorem exec_ldVxMem (x : Reg) (s : State) : exec (.ldVxMem x) s = .next (s.loadRegs (s.atI 0) (x.toNat + 1)) := rfl

/-! ### What an instruction may write (R22 to R32) -/

/-- The flag is VF. -/
theorem SameExcept.setFlag {L : List Component} (s : State) (f : Bool) (h : .v vf ∈ L) : SameExcept L s (s.setFlag f) :=
  .setV s vf _ h

theorem SameExcept.setV_setFlag {L : List Component} (s : State) (x : Reg) (b : Byte) (f : Bool) (hx : .v x ∈ L)
    (hvf : .v vf ∈ L) : SameExcept L s ((s.setV x b).setFlag f) :=
  (SameExcept.setV s x b hx).trans (.setFlag _ f hvf)

/-- Every instruction answers a next state, and writes nothing outside its `mayWrite`. -/
theorem exec_frame (i : Instr) (s : State) : ∃ t, exec i s = .next t ∧ SameExcept (mayWrite s i) s t := by
  cases i with
  | cls => exact ⟨_, exec_cls s, .setDisplay s _ (by simp [mayWrite])⟩
  | ret =>
    rcases s.pop_cases with ⟨hnil, -⟩ | ⟨rest, w, happend, -⟩
    · exact ⟨_, exec_ret_of_nil hnil, .enterHalted s _ _ (by simp [mayWrite]) (by simp [mayWrite]) (by simp [mayWrite])⟩
    · exact ⟨_, exec_ret_of_append happend,
        (SameExcept.setStack s _ (by simp [mayWrite])).trans (.setPc _ _ (by simp [mayWrite]))⟩
  | sys nnn =>
    exact ⟨_, exec_sys nnn s,
      .raise_decodeError s _ (by simp [mayWrite]) (by simp [mayWrite]) (by simp [mayWrite]) (by simp [mayWrite])⟩
  | call nnn =>
    rcases Nat.lt_or_ge s.sp 16 with hroom | hfull
    · exact ⟨_, exec_call_of_room hroom nnn,
        (SameExcept.setStack s _ (by simp [mayWrite])).trans (.setPc _ _ (by simp [mayWrite]))⟩
    · exact ⟨_, exec_call_of_full hfull nnn,
        .enterHalted s _ _ (by simp [mayWrite]) (by simp [mayWrite]) (by simp [mayWrite])⟩
  | jp _ | jpV0 _ => exact ⟨_, rfl, .setPc s _ (by simp [mayWrite])⟩
  | seImm _ _ | sneImm _ _ | seReg _ _ | sneReg _ _ | skp _ | sknp _ => exact ⟨_, rfl, .skipIf s _ (by simp [mayWrite])⟩
  | ldImm _ _ | addImm _ _ | ldReg _ _ | or _ _ | and _ _ | xor _ _ | ldVxDt _ =>
    exact ⟨_, rfl, .setV s _ _ (by simp [mayWrite])⟩
  | addReg _ _ | sub _ _ | shr _ _ | subn _ _ | shl _ _ =>
    exact ⟨_, rfl, .setV_setFlag s _ _ _ (by simp [mayWrite]) (by simp [mayWrite])⟩
  | ldI _ | addI _ | ldF _ => exact ⟨_, rfl, .setI s _ (by simp [mayWrite])⟩
  | rnd x nn =>
    exact ⟨_, exec_rnd x nn s, (SameExcept.setDraws s _ (by simp [mayWrite])).trans (.setV _ _ _ (by simp [mayWrite]))⟩
  | drw x y n =>
    exact ⟨_, exec_drw x y n s, (SameExcept.setDisplay s _ (by simp [mayWrite])).trans (.setFlag _ _ (by simp [mayWrite]))⟩
  | ldVxK x =>
    exact ⟨_, exec_ldVxK x s, (SameExcept.setWaitReg s _ (by simp [mayWrite])).trans (.setMode _ _ (by simp [mayWrite]))⟩
  | ldDtVx x => exact ⟨_, exec_ldDtVx x s, .setDelay s _ (by simp [mayWrite])⟩
  | ldStVx x => exact ⟨_, exec_ldStVx x s, .setSound s _ (by simp [mayWrite])⟩
  | ldB x =>
    exact ⟨_, exec_ldB x s, .memWriteBytes s _ _ fun k hk => List.mem_map.mpr ⟨k, List.mem_range.mpr hk, rfl⟩⟩
  | ldMemVx x =>
    exact ⟨_, exec_ldMemVx x s, .storeRegs s _ _ fun k hk => List.mem_map.mpr ⟨k, List.mem_range.mpr hk, rfl⟩⟩
  | ldVxMem x =>
    exact ⟨_, exec_ldVxMem x s, .loadRegs s _ _ fun k hk => List.mem_map.mpr ⟨k, List.mem_range.mpr hk, rfl⟩⟩

theorem exec_same {i : Instr} {s t : State} (h : exec i s = .next t) : SameExcept (mayWrite s i) s t := by
  obtain ⟨t', ht', hframe⟩ := exec_frame i s
  cases ht'.symm.trans h
  exact hframe

/-- The addresses an instruction stores to come from `I`, so the fetch does not move them. -/
theorem mayWrite_advancePc (s : State) (i : Instr) : mayWrite s.advancePc i = mayWrite s i := by
  cases i <;> rfl

theorem cfg_not_mem_mayWrite (s : State) (i : Instr) : .cfg ∉ mayWrite s i := by
  cases i <;> simp [mayWrite, Component.byteAt]

theorem keys_not_mem_mayWrite (s : State) (i : Instr) : .keys ∉ mayWrite s i := by
  cases i <;> simp [mayWrite, Component.byteAt]

theorem eq_rnd_of_draws_mem_mayWrite {s : State} {i : Instr} (h : .draws ∈ mayWrite s i) : ∃ x nn, i = .rnd x nn := by
  cases i <;> simp [mayWrite, Component.byteAt] at h ⊢

/-- The four instructions that may change the mode (R30). -/
theorem eq_of_mode_mem_mayWrite {s : State} {i : Instr} (h : .mode ∈ mayWrite s i) :
    i = .ret ∨ (∃ nnn, i = .sys nnn) ∨ (∃ nnn, i = .call nnn) ∨ ∃ x, i = .ldVxK x := by
  cases i <;> simp [mayWrite, Component.byteAt] at h ⊢

/-! ### One step -/

theorem step_of_not_running {s : State} (h : s.mode ≠ .running) : step s = .next s := by
  cases hm : s.mode with
  | running => exact absurd hm h
  | awaitingKey | halted => simp [step, hm]

theorem step_of_decode_ok {s : State} {i : Instr} (hm : s.mode = .running) (hd : decode s.fetchWord = .ok i) :
    step s = exec i s.advancePc := by
  simp [step, hm, hd]

/-- A word that decodes to nothing, or to SYS (R76, R101). -/
def Illegal (w : Word) : Prop := (∃ e, decode w = .error e) ∨ ∃ nnn, decode w = .ok (.sys nnn)

/-- SYS records the fetched word, since its encoding is that word. -/
theorem step_of_illegal {s : State} (hm : s.mode = .running) (h : Illegal s.fetchWord) :
    step s = .next (s.advancePc.raise .decodeError s.fetchWord) := by
  rcases h with ⟨e, he⟩ | ⟨nnn, hd⟩
  · simp [step, hm, he, execInvalid]
  · rw [step_of_decode_ok hm hd, exec_sys, encode_of_decode hd]

/-- Everything a step can be: nothing outside Running, the decoded instruction, or a decode error. -/
theorem step_cases (s : State) :
    (s.mode ≠ .running ∧ step s = .next s) ∨
      (s.mode = .running ∧ ∃ i, decode s.fetchWord = .ok i ∧ step s = exec i s.advancePc) ∨
      (s.mode = .running ∧ (∃ e, decode s.fetchWord = .error e) ∧
        step s = .next (s.advancePc.raise .decodeError s.fetchWord)) := by
  by_cases hm : s.mode = .running
  · cases hd : decode s.fetchWord with
    | ok i => exact .inr (.inl ⟨hm, i, rfl, step_of_decode_ok hm hd⟩)
    | error e => exact .inr (.inr ⟨hm, ⟨e, rfl⟩, step_of_illegal hm (.inl ⟨e, hd⟩)⟩)
  · exact .inl ⟨hm, step_of_not_running hm⟩

theorem step_total (s : State) : ∃ t, step s = .next t := by
  rcases step_cases s with ⟨-, h⟩ | ⟨-, i, -, h⟩ | ⟨-, -, h⟩
  · exact ⟨_, h⟩
  · obtain ⟨t, ht, -⟩ := exec_frame i s.advancePc
    exact ⟨t, h.trans ht⟩
  · exact ⟨_, h⟩

/-- The fetch and then an instruction write `PC` and what the instruction may write. -/
theorem exec_advancePc_same {i : Instr} {s t : State} (h : exec i s.advancePc = .next t) :
    SameExcept (.pc :: mayWrite s i) s t := by
  have hexec := exec_same h
  rw [mayWrite_advancePc] at hexec
  exact (SameExcept.advancePc s (by simp)).trans (hexec.mono fun c hc => List.mem_cons_of_mem _ hc)

theorem step_same_of_decode_ok {s t : State} {i : Instr} (hd : decode s.fetchWord = .ok i) (h : step s = .next t) :
    SameExcept (.pc :: mayWrite s i) s t := by
  by_cases hm : s.mode = .running
  · exact exec_advancePc_same ((step_of_decode_ok hm hd).symm.trans h)
  · cases (step_of_not_running hm).symm.trans h
    exact .refl _ s

/-- Every step writes `PC` and what some instruction may write; a decode error writes what SYS may. -/
theorem step_same {s t : State} (h : step s = .next t) : ∃ i, SameExcept (.pc :: mayWrite s i) s t := by
  rcases step_cases s with ⟨-, hs⟩ | ⟨-, i, hd, -⟩ | ⟨-, -, hs⟩
  · cases hs.symm.trans h
    exact ⟨.cls, .refl _ s⟩
  · exact ⟨i, step_same_of_decode_ok hd h⟩
  · cases hs.symm.trans h
    exact ⟨.sys 0#12, (SameExcept.advancePc s (by simp)).trans
      (.raise_decodeError _ _ (by simp) (by simp [mayWrite]) (by simp [mayWrite]) (by simp [mayWrite]))⟩

theorem step_keys_cfg {s t : State} (h : step s = .next t) : t.keys = s.keys ∧ t.cfg = s.cfg := by
  obtain ⟨i, hsame⟩ := step_same h
  exact ⟨hsame .keys (by simp [keys_not_mem_mayWrite]), hsame .cfg (by simp [cfg_not_mem_mayWrite])⟩

/-! ### The mode after a step (R30, R213) -/

/-- The word at `PC` raises the fatal error `cause` (R210, R219). -/
def Raises (s : State) : ErrorCause → Prop
  | .decodeError => s.cfg.decodeErrorPolicy = .halt ∧ Illegal s.fetchWord
  | .stackOverflow => 16 ≤ s.sp ∧ ∃ nnn, decode s.fetchWord = .ok (.call nnn)
  | .stackUnderflow => s.sp = 0 ∧ decode s.fetchWord = .ok .ret
  | .romTooLarge => False

/-- A step from Running goes on Running, waits for a key, or halts by the error its word raises; raising takes back the
fetch's advance of `PC`. -/
theorem step_mode {s t : State} (hm : s.mode = .running) (h : step s = .next t) :
    t.mode = .running ∨ (t.mode = .awaitingKey ∧ ∃ x, decode s.fetchWord = .ok (.ldVxK x)) ∨
      ∃ cause, Raises s cause ∧ t = (s.setMode .halted).setHalt (some ⟨cause, s.pc, s.fetchWord⟩) := by
  by_cases hillegal : Illegal s.fetchWord
  · cases (step_of_illegal hm hillegal).symm.trans h
    cases hp : s.cfg.decodeErrorPolicy with
    | skip => rw [State.raise_decodeError_skip (s := s.advancePc) hp]; exact .inl hm
    | halt =>
      rw [State.raise_decodeError_halt (s := s.advancePc) hp, State.advancePc_enterHalted]
      exact .inr (.inr ⟨.decodeError, ⟨hp, hillegal⟩, rfl⟩)
  · obtain ⟨i, hd⟩ : ∃ i, decode s.fetchWord = .ok i := by
      cases hd : decode s.fetchWord with
      | ok i => exact ⟨i, rfl⟩
      | error e => exact absurd (.inl ⟨e, hd⟩) hillegal
    have hexec := (step_of_decode_ok hm hd).symm.trans h
    by_cases hmay : .mode ∈ mayWrite s i
    case neg => exact .inl ((exec_advancePc_same hexec .mode (by simp [hmay])).trans hm)
    rcases eq_of_mode_mem_mayWrite hmay with rfl | ⟨nnn, rfl⟩ | ⟨nnn, rfl⟩ | ⟨x, rfl⟩
    · rcases s.advancePc.pop_cases with ⟨hnil, -⟩ | ⟨rest, w, happend, -⟩
      · cases (exec_ret_of_nil hnil).symm.trans hexec
        rw [State.advancePc_enterHalted, encode_of_decode hd]
        exact .inr (.inr ⟨.stackUnderflow, ⟨congrArg List.length hnil, hd⟩, rfl⟩)
      · cases (exec_ret_of_append happend).symm.trans hexec
        exact .inl hm
    · exact absurd (.inr ⟨nnn, hd⟩) hillegal
    · rcases Nat.lt_or_ge s.sp 16 with hroom | hfull
      · cases (exec_call_of_room (s := s.advancePc) hroom nnn).symm.trans hexec
        exact .inl hm
      · cases (exec_call_of_full (s := s.advancePc) hfull nnn).symm.trans hexec
        rw [State.advancePc_enterHalted, encode_of_decode hd]
        exact .inr (.inr ⟨.stackOverflow, ⟨hfull, nnn, hd⟩, rfl⟩)
    · cases (exec_ldVxK x s.advancePc).symm.trans hexec
      exact .inr (.inl ⟨rfl, x, hd⟩)

end Sys2Proof.Machine

/-! ### The step: O6 to O11 -/

/-- Settles O6: the two bytes at `PC` are the fetched word. -/
theorem stepRunsTheDecodedInstruction : Obligations.StepRunsTheDecodedInstruction := by
  unfold Obligations.StepRunsTheDecodedInstruction
  exact fun _ _ hm hd => step_of_decode_ok hm hd

/-- Settles O7: the step raises the decode error after the fetch, and raising leaves what the policy says. -/
theorem illegalWordIsADecodeError : Obligations.IllegalWordIsADecodeError := by
  unfold Obligations.IllegalWordIsADecodeError
  rintro s w hm rfl hillegal
  exact ⟨_, step_of_illegal hm hillegal, decodeErrorLeaves_raise _ s⟩

/-- Settles O8: both modes are not Running. -/
theorem stepIdlesOutsideRunning : Obligations.StepIdlesOutsideRunning := by
  unfold Obligations.StepIdlesOutsideRunning
  rintro s (hm | hm) <;> exact step_of_not_running (by simp [hm])

/-- Settles O9: every instruction answers a next state, and so does a decode error. -/
theorem stepAlwaysAnswersANextState : Obligations.StepAlwaysAnswersANextState := by
  unfold Obligations.StepAlwaysAnswersANextState
  exact step_total

/-- Settles O10: the frame of each instruction, after the fetch's advance of `PC`. -/
theorem stepWritesOnlyWhatItsInstructionMay : Obligations.StepWritesOnlyWhatItsInstructionMay := by
  unfold Obligations.StepWritesOnlyWhatItsInstructionMay
  exact fun _ _ _ hd h => step_same_of_decode_ok hd h

/-- Settles O11: of the three ways a step can end, only raising a fatal error leaves Running for Halted. -/
theorem fatalStepLeavesTheStateBeforeIt : Obligations.FatalStepLeavesTheStateBeforeIt := by
  unfold Obligations.FatalStepLeavesTheStateBeforeIt
  intro s t hm h hunsafe
  have hhalted : t.mode = .halted := not_not.mp hunsafe
  rcases step_mode hm h with hrun | ⟨hwait, -⟩ | ⟨cause, hraises, ht⟩
  · exact absurd (hrun.symm.trans hhalted) (by decide)
  · exact absurd (hwait.symm.trans hhalted) (by decide)
  · refine ⟨cause, ht, ?_⟩
    cases cause with
    | decodeError => exact .inl ⟨rfl, hraises⟩
    | stackOverflow => exact .inr (.inl ⟨rfl, hraises⟩)
    | stackUnderflow => exact .inr (.inr ⟨rfl, hraises⟩)
    | romTooLarge => exact hraises.elim

namespace Sys2Proof.Machine

/-! ### Rules of the control transfers, the ALU and the key skips -/

@[simp] theorem wide_toNat (b : Byte) : (wide b).toNat = b.toNat := BitVec.toNat_setWidth_of_le (by decide)

/-- The highest target of JP V0 is 0xFFF + 0xFF, which 16 bits hold. -/
@[simp] theorem State.v0Target_toNat (s : State) (nnn : Addr) :
    (s.v0Target nnn).toNat = nnn.toNat + (s.getV 0#4).toNat := by
  have hnnn := nnn.isLt
  have hv := (s.getV 0#4).isLt
  rw [State.v0Target, BitVec.toNat_add, absAddr_toNat, wide_toNat]
  omega

/-- One meaning runs, then the rest. -/
theorem execAll_cons {i : Instr} {s t : State} (h : exec i s = .next t) (is : List Instr) :
    execAll (i :: is) s = execAll is t := by
  simp [execAll, h]

theorem execAll_append {is : List Instr} {s t : State} (h : execAll is s = .next t) (js : List Instr) :
    execAll (is ++ js) s = execAll js t := by
  induction is generalizing s with
  | nil =>
    cases h
    rfl
  | cons i is ih =>
    obtain ⟨u, hu, -⟩ := exec_frame i s
    rw [execAll_cons hu] at h
    rw [List.cons_append, execAll_cons hu, ih h]

/-- CALLs and as many RETs give the whole state back: the last RET undoes the first CALL around the inner ones. -/
theorem execAll_calls_rets (targets : List Addr) (s : State) (hroom : s.sp + targets.length ≤ 16) :
    execAll (targets.map .call ++ List.replicate targets.length .ret) s = .next s := by
  induction targets generalizing s with
  | nil => rfl
  | cons a targets ih =>
    rw [List.length_cons] at hroom
    have hcall := exec_call_of_room (s := s) (by omega) a
    have hinner := ih ((s.setStack (s.stack ++ [s.pc])).setPc (absAddr a)) (by simp [State.sp] at hroom ⊢; omega)
    rw [List.length_cons, List.replicate_succ', List.map_cons, List.cons_append, ← List.append_assoc,
      execAll_cons hcall, execAll_append hinner, execAll_cons (exec_ret_of_append rfl)]
    rfl

/-! The flag is written last, so it stands in VF whatever `x` is (R10, D6). -/

@[simp] theorem State.setFlag_getV_vf (s : State) (f : Bool) : (s.setFlag f).getV 0xF#4 = flagByte f :=
  s.setV_getV_self vf _

theorem State.setFlag_getV_of_ne (s : State) (f : Bool) {x : Reg} (h : x ≠ 0xF#4) : (s.setFlag f).getV x = s.getV x :=
  s.setV_getV_of_ne h _

theorem State.setV_setFlag_getV (s : State) {x : Reg} (h : x ≠ 0xF#4) (b : Byte) (f : Bool) :
    ((s.setV x b).setFlag f).getV x = b := by
  rw [State.setFlag_getV_of_ne _ f h, State.setV_getV_self]

theorem flagByte_eq_one_iff (f : Bool) : flagByte f = 1#8 ↔ f = true := by cases f <;> decide

theorem flagByte_eq_zero_iff (f : Bool) : flagByte f = 0#8 ↔ f = false := by cases f <;> decide

theorem carryOut_iff (a b : Byte) : carryOut a b = true ↔ 255 < a.toNat + b.toNat := decide_eq_true_iff

theorem strictlyGreater_iff (a b : Byte) : strictlyGreater a b = true ↔ b.toNat < a.toNat := decide_eq_true_iff

theorem flagByte_lowBit_toNat (a : Byte) : (flagByte (lowBit a)).toNat = a.toNat % 2 := by revert a; decide

theorem flagByte_highBit_toNat (a : Byte) : (flagByte (highBit a)).toNat = a.toNat / 128 := by revert a; decide

/-- The flag of a difference, read at VF: strictly greater gives 1, less or equal gives 0. -/
theorem State.setFlag_strictlyGreater (s : State) (a b : Byte) :
    (b.toNat < a.toNat → (s.setFlag (strictlyGreater a b)).getV 0xF#4 = 1#8) ∧
      (a.toNat ≤ b.toNat → (s.setFlag (strictlyGreater a b)).getV 0xF#4 = 0#8) := by
  rw [State.setFlag_getV_vf, flagByte_eq_one_iff, flagByte_eq_zero_iff, ← Bool.not_eq_true, strictlyGreater_iff]
  exact ⟨id, Nat.not_lt.mpr⟩

theorem sub_toNat (a b : Byte) : (a - b).toNat = (256 + a.toNat - b.toNat) % 256 := by
  have hb := b.isLt
  rw [BitVec.toNat_sub]
  congr 1
  omega

/-! The key latch (R170). -/

theorem State.keyHeld_of_lt (s : State) {k : Byte} (h : k.toNat < 16) : s.keyHeld k = s.keys[k.toNat] := dif_pos h

theorem State.keyHeld_of_ge (s : State) {k : Byte} (h : 16 ≤ k.toNat) : s.keyHeld k = false := dif_neg (Nat.not_lt.mpr h)

theorem State.skipIf_pc (s : State) (c : Bool) : (s.skipIf c).pc = if c then s.pc + 2#16 else s.pc := by
  rw [State.skipIf_eq, State.setPc_pc]

end Sys2Proof.Machine

/-! ### Control transfer: O15 to O18, O20, O21 -/

/-- Settles O15, by policy. -/
theorem sysIsADecodeError : Obligations.SysIsADecodeError := by
  unfold Obligations.SysIsADecodeError
  intro nnn hcls hret
  refine ⟨decode_sys hcls hret, fun s => ⟨_, exec_sys nnn s, ?skip, ?halt⟩⟩
  case skip =>
    intro hp
    rw [State.raise_decodeError_skip hp]
    exact ⟨rfl, .setDiag s _ (List.mem_singleton.mpr rfl)⟩
  case halt =>
    intro hp
    rw [State.raise_decodeError_halt hp]
    exact fatalDuring_enterHalted _ _ s

/-- Settles O16, by whether the stack has an entry. -/
theorem retPopsTheReturnAddress : Obligations.RetPopsTheReturnAddress := by
  unfold Obligations.RetPopsTheReturnAddress
  refine ⟨decode_ret, fun s rest target happend => ⟨_, exec_ret_of_append happend, rfl, rfl, ?frame⟩,
    fun s hnil => ⟨_, exec_ret_of_nil hnil, fatalDuring_enterHalted _ _ s⟩⟩
  case frame => exact (SameExcept.setStack s _ (by simp)).trans (.setPc _ _ (by simp))

/-- Settles O17: both write `PC` alone, and neither target needs a reduction. -/
theorem jumpsSetThePc : Obligations.JumpsSetThePc := by
  unfold Obligations.JumpsSetThePc
  intro nnn
  refine ⟨decode_jp nnn, decode_jpV0 nnn, fun s => ⟨⟨_, exec_jp nnn s, absAddr_toNat nnn, ?jpFrame⟩,
    ⟨_, exec_jpV0 nnn s, s.v0Target_toNat nnn, ?jpV0Frame⟩⟩⟩
  case jpFrame => exact exec_same (exec_jp nnn s)
  case jpV0Frame => exact exec_same (exec_jpV0 nnn s)

/-- Settles O18, by whether the stack has room. -/
theorem callPushesTheReturnAddress : Obligations.CallPushesTheReturnAddress := by
  unfold Obligations.CallPushesTheReturnAddress
  intro nnn
  refine ⟨decode_call nnn, fun s hroom => ⟨_, exec_call_of_room hroom nnn, rfl, ?depth, absAddr_toNat nnn, ?frame⟩,
    fun s hfull => ⟨_, exec_call_of_full (Nat.le_of_eq hfull.symm) nnn, fatalDuring_enterHalted _ _ s⟩⟩
  case depth => simp [State.sp]
  case frame => exact (SameExcept.setStack s _ (by simp)).trans (.setPc _ _ (by simp))

/-- Settles O20: each skip's condition is the equality test of the two registers. -/
theorem skipsOnRegisters : Obligations.SkipsOnRegisters := by
  unfold Obligations.SkipsOnRegisters
  intro x y
  refine ⟨decode_seReg x y, decode_sneReg x y, fun s => ⟨⟨_, exec_seReg x y s, ?seEqual, ?seUnequal, ?seFrame⟩,
    ⟨_, exec_sneReg x y s, ?sneUnequal, ?sneEqual, ?sneFrame⟩⟩⟩
  case seEqual => exact fun heq => s.skipIf_pc_of_true (beq_iff_eq.mpr heq)
  case seUnequal => exact fun hne => s.skipIf_pc_of_false (beq_eq_false_iff_ne.mpr hne)
  case sneUnequal => exact fun hne => s.skipIf_pc_of_true (bne_iff_ne.mpr hne)
  case sneEqual => exact fun heq => s.skipIf_pc_of_false (bne_eq_false_iff_eq.mpr heq)
  case seFrame => exact exec_same (exec_seReg x y s)
  case sneFrame => exact exec_same (exec_sneReg x y s)

/-- Settles O21: the calls and returns give back the very state they started from. -/
theorem nestedCallsReturn : Obligations.NestedCallsReturn := by
  unfold Obligations.NestedCallsReturn
  exact fun targets s hroom => ⟨s, execAll_calls_rets targets s hroom, rfl, rfl, .refl [] s⟩

/-! ### Arithmetic: O24 to O27, O29 -/

/-- Settles O24: each operation is bitwise on the two old bytes, and `setV` writes `V[x]` alone. -/
theorem logicalOperations : Obligations.LogicalOperations := by
  unfold Obligations.LogicalOperations
  intro x y
  refine ⟨decode_or x y, decode_and x y, decode_xor x y, fun s => ⟨⟨_, exec_or x y s, ?or, ?orFrame⟩,
    ⟨_, exec_and x y s, ?and, ?andFrame⟩, ⟨_, exec_xor x y s, ?xor, ?xorFrame⟩⟩⟩
  case or => intro k _; rw [State.setV_getV_self, BitVec.getLsbD_or]
  case and => intro k _; rw [State.setV_getV_self, BitVec.getLsbD_and]
  case xor => intro k _; rw [State.setV_getV_self, BitVec.getLsbD_xor]
  case orFrame => exact exec_same (exec_or x y s)
  case andFrame => exact exec_same (exec_and x y s)
  case xorFrame => exact exec_same (exec_xor x y s)

/-- Settles O25: byte addition is the sum modulo 256, and the flag stands in VF because it is written last. -/
theorem addSetsTheCarry : Obligations.AddSetsTheCarry := by
  unfold Obligations.AddSetsTheCarry
  intro x y
  refine ⟨decode_addReg x y, fun s => ⟨_, exec_addReg x y s, ?sum, ?carry, ?noCarry, ?frame⟩⟩
  case sum => intro hx; rw [State.setV_setFlag_getV s hx, BitVec.toNat_add]
  case carry =>
    intro hgt
    rw [State.setFlag_getV_vf, flagByte_eq_one_iff, carryOut_iff]
    exact hgt
  case noCarry =>
    intro hle
    rw [State.setFlag_getV_vf, flagByte_eq_zero_iff, ← Bool.not_eq_true, carryOut_iff]
    exact Nat.not_lt.mpr hle
  case frame => exact exec_same (exec_addReg x y s)

/-- Settles O26: SUBN is SUB with its operands exchanged. -/
theorem subtractionsSetStrictlyGreater : Obligations.SubtractionsSetStrictlyGreater := by
  unfold Obligations.SubtractionsSetStrictlyGreater
  intro x y
  refine ⟨decode_sub x y, decode_subn x y, fun s => ⟨⟨_, exec_sub x y s, ?difference, ?greater, ?notGreater, ?frame⟩,
    ⟨_, exec_subn x y s, ?differenceN, ?greaterN, ?notGreaterN, ?frameN⟩⟩⟩
  case difference | differenceN => intro hx; rw [State.setV_setFlag_getV s hx, sub_toNat]
  case greater | greaterN => exact (State.setFlag_strictlyGreater _ _ _).1
  case notGreater | notGreaterN => exact (State.setFlag_strictlyGreater _ _ _).2
  case frame => exact exec_same (exec_sub x y s)
  case frameN => exact exec_same (exec_subn x y s)

/-- Settles O27: each shift halves or doubles the byte, and the flag is the bit shifted out of the old `V[x]`. -/
theorem shiftsSetTheBitShiftedOut : Obligations.ShiftsSetTheBitShiftedOut := by
  unfold Obligations.ShiftsSetTheBitShiftedOut
  intro x y
  refine ⟨decode_shr x y, decode_shl x y, fun s => ⟨⟨_, exec_shr x y s, ?half, ?lowBit, ?shrFrame⟩,
    ⟨_, exec_shl x y s, ?double, ?highBit, ?shlFrame⟩⟩⟩
  case half => intro hx; rw [State.setV_setFlag_getV s hx, BitVec.toNat_ushiftRight, Nat.shiftRight_eq_div_pow, pow_one]
  case double => intro hx; rw [State.setV_setFlag_getV s hx, BitVec.toNat_shiftLeft, Nat.shiftLeft_eq, pow_one]
  case lowBit => rw [State.setFlag_getV_vf, flagByte_lowBit_toNat]
  case highBit => rw [State.setFlag_getV_vf, flagByte_highBit_toNat]
  case shrFrame => exact exec_same (exec_shr x y s)
  case shlFrame => exact exec_same (exec_shl x y s)

/-- Settles O29: the written byte is the draw under the mask, so it has no bit that the mask lacks. -/
theorem randomByteIsMasked : Obligations.RandomByteIsMasked := by
  unfold Obligations.RandomByteIsMasked
  intro x nn
  refine ⟨decode_rnd x nn, fun s => ⟨_, exec_rnd x nn s, State.setV_getV_self _ x _, rfl, ?masked, ?frame⟩⟩
  case masked =>
    intro k _ hbit
    rw [State.setV_getV_self, BitVec.getLsbD_and, hbit, Bool.and_false]
  case frame => exact exec_same (exec_rnd x nn s)

/-! ### Keys and timers: O33, O34, O36 -/

/-- Settles O33: the latch decides below 16, and from 16 up no key is held. -/
theorem keySkips : Obligations.KeySkips := by
  unfold Obligations.KeySkips
  intro x
  refine ⟨decode_skp x, decode_sknp x, fun s => ⟨⟨_, exec_skp x s, ?skpFrame, ?skpKey, ?skpNoKey⟩,
    ⟨_, exec_sknp x s, ?sknpFrame, ?sknpKey, ?sknpNoKey⟩⟩⟩
  case skpFrame => exact exec_same (exec_skp x s)
  case sknpFrame => exact exec_same (exec_sknp x s)
  case skpKey => intro hlt; rw [State.skipIf_pc, State.keyHeld_of_lt s hlt]
  case skpNoKey => exact fun hge => s.skipIf_pc_of_false (s.keyHeld_of_ge hge)
  case sknpKey =>
    intro hlt
    rw [State.skipIf_pc, State.keyHeld_of_lt s hlt]
    cases s.keys[(s.getV x).toNat] <;> rfl
  case sknpNoKey => exact fun hge => s.skipIf_pc_of_true (by rw [s.keyHeld_of_ge hge]; rfl)

/-- Settles O34: Fx0A is two updates, of `wait_reg` and of the mode. -/
theorem keyWaitFillsTheSlot : Obligations.KeyWaitFillsTheSlot := by
  unfold Obligations.KeyWaitFillsTheSlot
  intro x
  refine ⟨decode_ldVxK x, fun s => ⟨_, exec_ldVxK x s, rfl, rfl, ?frame⟩⟩
  case frame => exact exec_same (exec_ldVxK x s)

/-- Settles O36: each of the three is one update. -/
theorem timerInstructions : Obligations.TimerInstructions := by
  unfold Obligations.TimerInstructions
  intro x
  refine ⟨decode_ldVxDt x, decode_ldDtVx x, decode_ldStVx x, fun s => ⟨
    ⟨_, exec_ldVxDt x s, s.setV_getV_self x _, exec_same (exec_ldVxDt x s)⟩,
    ⟨_, exec_ldDtVx x s, rfl, exec_same (exec_ldDtVx x s)⟩,
    ⟨_, exec_ldStVx x s, rfl, exec_same (exec_ldStVx x s)⟩⟩⟩

namespace Sys2Proof.Machine

/-! ### The invariant, one update at a time -/

/-- The invariant reads six components and no others. -/
theorem CoreInv.of_same {s t : State} (h : CoreInv s) (hcfg : t.cfg = s.cfg) (hmem : t.mem = s.mem) (hi : t.i = s.i)
    (hstack : t.stack = s.stack) (hmode : t.mode = s.mode) (hhalt : t.halt = s.halt) : CoreInv t where
  memory := by rw [hcfg, hmem]; exact h.memory
  index := by rw [hi]; exact h.index
  depth := by rw [State.sp, hstack]; exact h.depth
  record := by rw [hhalt, hmode]; exact h.record

section Updates

variable {s : State} (h : CoreInv s)
include h

theorem CoreInv.setV (r : Reg) (b : Byte) : CoreInv (s.setV r b) := h.of_same rfl rfl rfl rfl rfl rfl

theorem CoreInv.setPc (w : Word) : CoreInv (s.setPc w) := h.of_same rfl rfl rfl rfl rfl rfl

theorem CoreInv.setDelay (b : Byte) : CoreInv (s.setDelay b) := h.of_same rfl rfl rfl rfl rfl rfl

theorem CoreInv.setSound (b : Byte) : CoreInv (s.setSound b) := h.of_same rfl rfl rfl rfl rfl rfl

theorem CoreInv.setKeyBit (k : Fin 16) (p : Bool) : CoreInv (s.setKeyBit k p) := h.of_same rfl rfl rfl rfl rfl rfl

theorem CoreInv.setWaitReg (r : Reg) : CoreInv (s.setWaitReg r) := h.of_same rfl rfl rfl rfl rfl rfl

theorem CoreInv.setDisplay (d : Bitmap) : CoreInv (s.setDisplay d) := h.of_same rfl rfl rfl rfl rfl rfl

theorem CoreInv.setDiag (l : List Diagnostic) : CoreInv (s.setDiag l) := h.of_same rfl rfl rfl rfl rfl rfl

theorem CoreInv.setDraws (n : Nat) : CoreInv (s.setDraws n) := h.of_same rfl rfl rfl rfl rfl rfl

theorem CoreInv.skipIf (c : Bool) : CoreInv (s.skipIf c) := by
  rw [State.skipIf_eq]
  exact h.setPc _

theorem CoreInv.loadRegs (a n : Nat) : CoreInv (s.loadRegs a n) :=
  h.of_same (by simp) (by simp) (by simp) (by simp) (by simp) (by simp)

theorem CoreInv.setI {w : Word} (hw : w.toNat < 4096) : CoreInv (s.setI w) := ⟨h.memory, hw, h.depth, h.record⟩

theorem CoreInv.setStack {l : List Word} (hl : l.length ≤ 16) : CoreInv (s.setStack l) :=
  ⟨h.memory, h.index, hl, h.record⟩

/-- Between Running and AwaitingKey no halt record comes or goes. -/
theorem CoreInv.setMode_of_not_halted {m : Mode} (hs : s.mode ≠ .halted) (hm : m ≠ .halted) : CoreInv (s.setMode m) :=
  ⟨h.memory, h.index, h.depth, h.record.trans (iff_of_false hs hm)⟩

/-- A fatal entry sets mode and record together (R31). -/
theorem CoreInv.enterHalted (cause : ErrorCause) (w : Word) : CoreInv (s.enterHalted cause w) :=
  ⟨h.memory, h.index, h.depth, iff_of_true rfl rfl⟩

theorem CoreInv.raise_decodeError (w : Word) : CoreInv (s.raise .decodeError w) := by
  cases hp : s.cfg.decodeErrorPolicy with
  | skip => rw [State.raise_decodeError_skip hp]; exact h.setDiag _
  | halt => rw [State.raise_decodeError_halt hp]; exact h.enterHalted _ w

theorem CoreInv.memWriteBytes (a : Nat) (l : List Byte) : CoreInv (s.memWriteBytes a l) := by
  have hwf := State.memWriteBytes_wf h.memory a l
  rw [State.memWriteBytes_eq] at hwf ⊢
  exact ⟨hwf, h.index, h.depth, h.record⟩

theorem CoreInv.storeRegs (a n : Nat) : CoreInv (s.storeRegs a n) := by
  have hwf := State.storeRegs_wf h.memory a n
  rw [State.storeRegs_eq] at hwf ⊢
  exact ⟨hwf, h.index, h.depth, h.record⟩

end Updates

/-! ### The invariant under an instruction, a step and a batch -/

theorem absAddr_lt (nnn : Addr) : (absAddr nnn).toNat < 4096 := by
  rw [absAddr_toNat]
  exact nnn.isLt

theorem State.indexSum_lt (s : State) (x : Reg) : (s.indexSum x).toNat < 4096 := by
  rw [State.indexSum_toNat]
  exact Nat.mod_lt _ (by decide)

theorem glyphAddr_lt (g : Byte) : (glyphAddr g).toNat < 4096 := by
  have hg := g.isLt
  rw [glyphAddr_toNat]
  omega

/-- An instruction run in mode Running keeps the invariant. -/
theorem exec_inv (i : Instr) {s : State} (h : CoreInv s) (hm : s.mode = .running) :
    ∃ t, exec i s = .next t ∧ CoreInv t := by
  cases i with
  | cls => exact ⟨_, exec_cls s, h.setDisplay _⟩
  | ret =>
    rcases s.pop_cases with ⟨hnil, -⟩ | ⟨rest, w, happend, -⟩
    · exact ⟨_, exec_ret_of_nil hnil, h.enterHalted _ _⟩
    · have hdepth : rest.length + 1 ≤ 16 := by simpa [State.sp, happend] using h.depth
      exact ⟨_, exec_ret_of_append happend, (h.setStack (Nat.le_of_succ_le hdepth)).setPc w⟩
  | sys nnn => exact ⟨_, exec_sys nnn s, h.raise_decodeError _⟩
  | call nnn =>
    rcases Nat.lt_or_ge s.sp 16 with hroom | hfull
    · have hdepth : (s.stack ++ [s.pc]).length ≤ 16 := by
        rw [List.length_append]
        exact hroom
      exact ⟨_, exec_call_of_room hroom nnn, (h.setStack hdepth).setPc _⟩
    · exact ⟨_, exec_call_of_full hfull nnn, h.enterHalted _ _⟩
  | jp _ | jpV0 _ => exact ⟨_, rfl, h.setPc _⟩
  | seImm _ _ | sneImm _ _ | seReg _ _ | sneReg _ _ | skp _ | sknp _ => exact ⟨_, rfl, h.skipIf _⟩
  | ldImm _ _ | addImm _ _ | ldReg _ _ | or _ _ | and _ _ | xor _ _ | ldVxDt _ => exact ⟨_, rfl, h.setV _ _⟩
  | addReg _ _ | sub _ _ | shr _ _ | subn _ _ | shl _ _ => exact ⟨_, rfl, (h.setV _ _).setV vf _⟩
  | ldI nnn => exact ⟨_, exec_ldI nnn s, h.setI (absAddr_lt nnn)⟩
  | addI x => exact ⟨_, exec_addI x s, h.setI (s.indexSum_lt x)⟩
  | ldF x => exact ⟨_, exec_ldF x s, h.setI (glyphAddr_lt _)⟩
  | rnd x nn => exact ⟨_, exec_rnd x nn s, (h.setDraws _).setV x _⟩
  | drw x y n => exact ⟨_, exec_drw x y n s, (h.setDisplay _).setV vf _⟩
  | ldVxK x =>
    have hs : (s.setWaitReg x).mode ≠ .halted := by simp [hm]
    exact ⟨_, exec_ldVxK x s, (h.setWaitReg x).setMode_of_not_halted hs (by decide)⟩
  | ldDtVx x => exact ⟨_, exec_ldDtVx x s, h.setDelay _⟩
  | ldStVx x => exact ⟨_, exec_ldStVx x s, h.setSound _⟩
  | ldB x => exact ⟨_, exec_ldB x s, h.memWriteBytes _ _⟩
  | ldMemVx x => exact ⟨_, exec_ldMemVx x s, h.storeRegs _ _⟩
  | ldVxMem x => exact ⟨_, exec_ldVxMem x s, h.loadRegs _ _⟩

theorem step_inv {s t : State} (h : CoreInv s) (hstep : step s = .next t) : CoreInv t := by
  rcases step_cases s with ⟨-, hs⟩ | ⟨hm, i, -, hs⟩ | ⟨-, -, hs⟩
  · cases hs.symm.trans hstep
    exact h
  · obtain ⟨u, hu, hinv⟩ := exec_inv i (h.setPc _ : CoreInv s.advancePc) hm
    cases (hs.trans hu).symm.trans hstep
    exact hinv
  · cases hs.symm.trans hstep
    exact (h.setPc _ : CoreInv s.advancePc).raise_decodeError _

theorem powerOn_inv (cfg : Config) : CoreInv (State.powerOn cfg) where
  memory := Memory.wf_nil _
  index := by simp [State.powerOn]
  depth := by simp [State.powerOn, State.sp]
  record := by simp [State.powerOn]

/-! ### run_batch (R222, R224) -/

theorem runSteps_of_not_running {s : State} (h : s.mode ≠ .running) (n : Nat) : runSteps n s = .next s := by
  cases n with
  | zero => rfl
  | succ n =>
    cases hm : s.mode with
    | running => exact absurd hm h
    | awaitingKey | halted => simp [runSteps, hm]

/-- Leaving the loop early is the same as the no-op steps that remain (R80, R224). -/
theorem runSteps_succ {s t : State} (h : step s = .next t) (n : Nat) : runSteps (n + 1) s = runSteps n t := by
  by_cases hm : s.mode = .running
  · simp [runSteps, hm, h]
  · cases (step_of_not_running hm).symm.trans h
    rw [runSteps_of_not_running hm, runSteps_of_not_running hm]

/-- What every step keeps, the steps of a batch keep. -/
theorem runSteps_induction {P : State → Prop} (hstep : ∀ s t, P s → step s = .next t → P t) {n : Nat} {s t : State}
    (hs : P s) (h : runSteps n s = .next t) : P t := by
  induction n generalizing s with
  | zero =>
    cases h
    exact hs
  | succ n ih =>
    obtain ⟨u, hu⟩ := step_total s
    exact ih (hstep s u hs hu) ((runSteps_succ hu n).symm.trans h)

theorem runSteps_total (n : Nat) (s : State) : ∃ t, runSteps n s = .next t := by
  induction n generalizing s with
  | zero => exact ⟨s, rfl⟩
  | succ n ih =>
    obtain ⟨u, hu⟩ := step_total s
    rw [runSteps_succ hu]
    exact ih u

/-- The batch's loop is the core's own run (R224). -/
theorem run_eq_runSteps (n : Nat) (s : State) : Host.Core.run Sys2Proof.core n s = runSteps n s := by
  induction n generalizing s with
  | zero => rfl
  | succ n ih =>
    obtain ⟨u, hu⟩ := step_total s
    have hcore : Sys2Proof.core.step s = .next u := hu
    simp only [Host.Core.run, hcore]
    rw [runSteps_succ hu, ih]

theorem State.endBatch_of_halted {s : State} (h : s.mode = .halted) : s.endBatch = s := by
  simp [State.endBatch, h]

theorem State.endBatch_of_not_halted {s : State} (h : s.mode ≠ .halted) : s.endBatch = s.tickTimers := by
  cases hm : s.mode with
  | halted => exact absurd hm h
  | running | awaitingKey => simp [State.endBatch, hm]

theorem SameExcept.tickTimers {L : List Component} (s : State) (hd : .delay ∈ L) (hs : .sound ∈ L) :
    SameExcept L s s.tickTimers := (SameExcept.setDelay s _ hd).trans (.setSound _ _ hs)

theorem SameExcept.endBatch {L : List Component} (s : State) (hd : .delay ∈ L) (hs : .sound ∈ L) :
    SameExcept L s s.endBatch := by
  by_cases h : s.mode = .halted
  · rw [State.endBatch_of_halted h]; exact .refl L s
  · rw [State.endBatch_of_not_halted h]; exact .tickTimers s hd hs

@[simp] theorem State.endBatch_mode (s : State) : s.endBatch.mode = s.mode :=
  SameExcept.endBatch (L := [.delay, .sound]) s (by simp) (by simp) .mode (by simp)

theorem State.endBatch_keys_cfg (s : State) : s.endBatch.keys = s.keys ∧ s.endBatch.cfg = s.cfg :=
  have h := SameExcept.endBatch (L := [.delay, .sound]) s (by simp) (by simp)
  ⟨h .keys (by simp), h .cfg (by simp)⟩

theorem runBatch_of_runSteps {n : Nat} {s t : State} (h : runSteps n s = .next t) : runBatch n s = .next t.endBatch := by
  simp [runBatch, h]

/-- Everything a batch answers: its steps, then the decrement. -/
theorem runBatch_eq_next {n : Nat} {s u : State} (h : runBatch n s = .next u) :
    ∃ t, runSteps n s = .next t ∧ u = t.endBatch := by
  obtain ⟨t, ht⟩ := runSteps_total n s
  cases (runBatch_of_runSteps ht).symm.trans h
  exact ⟨t, ht, rfl⟩

theorem runBatch_total (n : Nat) (s : State) : ∃ u, runBatch n s = .next u := by
  obtain ⟨t, ht⟩ := runSteps_total n s
  exact ⟨_, runBatch_of_runSteps ht⟩

theorem CoreInv.endBatch {s : State} (h : CoreInv s) : CoreInv s.endBatch := by
  by_cases hm : s.mode = .halted
  · rwa [State.endBatch_of_halted hm]
  · rw [State.endBatch_of_not_halted hm]
    exact (h.setDelay _).setSound _

/-! ### set_key (R232) -/

theorem setKey_of_gt {k : Nat} (h : 15 < k) (p : Bool) (s : State) : setKey k p s = .refused (.keyOutOfRange k) :=
  dif_neg (by omega)

/-- A press while waiting completes the wait. -/
theorem setKey_press {k : Nat} (hk : k < 16) {s : State} (hm : s.mode = .awaitingKey) :
    setKey k true s = .next ((s.setKeyBit ⟨k, hk⟩ true).completeWait ⟨k, hk⟩) := by
  simp [setKey, hk, hm]

/-- Any other call writes the latch alone. -/
theorem setKey_latch {k : Nat} (hk : k < 16) {p : Bool} {s : State} (h : s.mode ≠ .awaitingKey ∨ p = false) :
    setKey k p s = .next (s.setKeyBit ⟨k, hk⟩ p) := by
  cases hm : s.mode with
  | awaitingKey =>
    have hp : p = false := h.resolve_left (not_not.mpr hm)
    simp [setKey, hk, hm, hp]
  | running | halted => simp [setKey, hk, hm]

/-- Everything `set_key` can answer for an index up to 15. -/
theorem setKey_cases {k : Nat} (hk : k < 16) (p : Bool) (s : State) :
    (s.mode = .awaitingKey ∧ p = true ∧ setKey k p s = .next ((s.setKeyBit ⟨k, hk⟩ true).completeWait ⟨k, hk⟩)) ∨
      ((s.mode ≠ .awaitingKey ∨ p = false) ∧ setKey k p s = .next (s.setKeyBit ⟨k, hk⟩ p)) := by
  by_cases h : s.mode = .awaitingKey ∧ p = true
  · obtain ⟨hm, rfl⟩ := h
    exact .inl ⟨hm, rfl, setKey_press hk hm⟩
  · have hlatch : s.mode ≠ .awaitingKey ∨ p = false := (not_and_or.mp h).imp id Bool.eq_false_iff.mpr
    exact .inr ⟨hlatch, setKey_latch hk hlatch⟩

theorem CoreInv.completeWait {s : State} (h : CoreInv s) (hm : s.mode = .awaitingKey) (k : Fin 16) :
    CoreInv (s.completeWait k) :=
  (h.setV s.waitReg _).setMode_of_not_halted (by simp [hm]) (by decide)

theorem SameExcept.completeWait {L : List Component} (s : State) (k : Fin 16) (hv : .v s.waitReg ∈ L)
    (hmode : .mode ∈ L) : SameExcept L s (s.completeWait k) :=
  (SameExcept.setV s s.waitReg _ hv).trans (.setMode _ _ hmode)

/-- The register waited for receives the key's number (R232). -/
theorem State.completeWait_getV (s : State) (k : Fin 16) : ((s.completeWait k).getV s.waitReg).toNat = k.val := by
  have hk := k.isLt
  rw [State.completeWait, State.setMode_getV, State.setV_getV_self, BitVec.toNat_ofNat]
  omega

/-! ### load (R251, R252) -/

/-- A load is the power-on state with another memory, and the draws counted on. -/
theorem State.loaded_eq (s : State) (rom : List Byte) :
    s.loaded rom = ((State.powerOn s.cfg).setMem (s.loaded rom).mem).setDraws s.draws :=
  congrArg (·.setDraws s.draws) (State.memWriteBytes_eq _ _ rom)

theorem State.loaded_mode (s : State) (rom : List Byte) : (s.loaded rom).mode = .running :=
  congrArg State.mode (s.loaded_eq rom)

theorem loaded_inv (s : State) (rom : List Byte) : CoreInv (s.loaded rom) :=
  ((powerOn_inv s.cfg).memWriteBytes _ rom).setDraws _

theorem load_of_le {rom : List Byte} (h : rom.length ≤ 3584) (s : State) : load rom s = (s.loaded rom, .ok) := if_pos h

theorem load_reject {rom : List Byte} {s : State} (h : 3584 < rom.length) (hp : s.cfg.romOversizePolicy = .reject) :
    load rom s = (s, .romTooLarge rom.length) := by
  simp [load, Config.romMax, Nat.not_le.mpr h, hp]

theorem load_truncate {rom : List Byte} {s : State} (h : 3584 < rom.length) (hp : s.cfg.romOversizePolicy = .truncate) :
    load rom s = (s.loaded (rom.take 3584), .ok) := by
  simp [load, Config.romMax, Nat.not_le.mpr h, hp]

/-- Everything `load` can do. -/
theorem load_cases (rom : List Byte) (s : State) :
    load rom s = (s, .romTooLarge rom.length) ∨ ∃ rom', load rom s = (s.loaded rom', .ok) := by
  rcases Nat.lt_or_ge 3584 rom.length with hlarge | hfits
  · cases hp : s.cfg.romOversizePolicy with
    | reject => exact .inl (load_reject hlarge hp)
    | truncate => exact .inr ⟨_, load_truncate hlarge hp⟩
  · exact .inr ⟨rom, load_of_le hfits s⟩

/-- The ROM stands at 0x200. -/
theorem State.loaded_memRead_rom (s : State) {rom : List Byte} (hlen : rom.length ≤ 3584) {k : Nat} (hk : k < rom.length) :
    (s.loaded rom).memRead (0x200 + k) = rom[k] :=
  State.memWriteBytes_memRead_offset _ 0x200 rom (by omega) k hk

/-- Outside the ROM memory is as after power-on. -/
theorem State.loaded_memRead_outside (s : State) {rom : List Byte} (hlen : rom.length ≤ 3584) {a : Nat} (ha : a < 4096)
    (hout : ¬ (0x200 ≤ a ∧ a < 0x200 + rom.length)) : (s.loaded rom).memRead a = resetByte s.cfg.font a := by
  have hread := State.memWriteBytes_memRead (State.powerOn s.cfg) 0x200 rom (by omega) a
  rw [List.getD_eq_default _ _ (by omega), State.powerOn_memRead, Nat.mod_eq_of_lt ha] at hread
  exact hread

/-! ### One host operation (R231) -/

theorem perform_step {s t : State} (h : step s = .next t) : perform .step s = .next ⟨t, .nothing⟩ := by
  simp [perform, h, servedNothing]

theorem perform_runBatch {n : Nat} {s t : State} (h : runBatch n s = .next t) :
    perform (.runBatch n) s = .next ⟨t, .nothing⟩ := by
  simp [perform, h, servedNothing]

theorem perform_setKey {k : Nat} {p : Bool} {s t : State} (h : setKey k p s = .next t) :
    perform (.setKey k p) s = .next ⟨t, .nothing⟩ := by
  simp [perform, h, servedNothing]

theorem perform_setKey_of_gt {k : Nat} (h : 15 < k) (p : Bool) (s : State) :
    perform (.setKey k p) s = .refused (.keyOutOfRange k) := by
  simp [perform, setKey_of_gt h, servedNothing]

theorem performAll_cons {op : HostOp} {s : State} {r : Served} (h : perform op s = .next r) (ops : List HostOp) :
    performAll (op :: ops) s = performAll ops r.state := by
  simp [performAll, h]

end Sys2Proof.Machine

namespace Sys2Proof.Machine

/-- One host operation keeps the invariant, a refused one being none (R231). -/
theorem perform_inv (op : HostOp) {s : State} {r : Served} (h : CoreInv s) (hr : perform op s = .next r) :
    CoreInv r.state := by
  cases op with
  | load rom =>
    cases hr
    rcases load_cases rom s with hload | ⟨rom', hload⟩ <;> rw [hload]
    · exact h
    · exact loaded_inv s rom'
  | step =>
    obtain ⟨t, ht⟩ := step_total s
    cases (perform_step ht).symm.trans hr
    exact step_inv h ht
  | runBatch n =>
    obtain ⟨t, ht⟩ := runSteps_total n s
    cases (perform_runBatch (runBatch_of_runSteps ht)).symm.trans hr
    exact (runSteps_induction (fun _ _ => step_inv) h ht).endBatch
  | setKey k p =>
    rcases Nat.lt_or_ge 15 k with hbad | hk
    · cases (perform_setKey_of_gt hbad p s).symm.trans hr
    · rcases setKey_cases (Nat.lt_succ_iff.mpr hk) p s with ⟨hm, -, hkey⟩ | ⟨-, hkey⟩
      · cases (perform_setKey hkey).symm.trans hr
        exact (h.setKeyBit _ true).completeWait hm _
      · cases (perform_setKey hkey).symm.trans hr
        exact h.setKeyBit _ p
  | readFrame | readStatus | readDiag =>
    cases hr
    exact h
  | clearDiag =>
    cases hr
    exact h.setDiag []

/-- A step that leaves Running for AwaitingKey ran Fx0A (R30, R173). -/
theorem decode_of_step_awaitingKey {s t : State} (hm : s.mode = .running) (h : step s = .next t)
    (ht : t.mode = .awaitingKey) : ∃ x, decode s.fetchWord = .ok (.ldVxK x) := by
  rcases step_mode hm h with hrun | ⟨-, hkey⟩ | ⟨cause, -, rfl⟩
  · exact absurd (hrun.symm.trans ht) (by decide)
  · exact hkey
  · cases ht

/-- A mode that is neither Running nor AwaitingKey is Halted. -/
theorem Mode.halted_or_awaitingKey {m : Mode} (h : m ≠ .running) : m = .halted ∨ m = .awaitingKey := by
  cases m with
  | running => exact absurd rfl h
  | awaitingKey => exact .inr rfl
  | halted => exact .inl rfl

end Sys2Proof.Machine

/-! ### The invariant: O12 to O14, O42 -/

/-- Settles O12: the reset state is the power-on state under the default parameters. -/
theorem resetMeetsTheInvariant : Obligations.ResetMeetsTheInvariant := by
  unfold Obligations.ResetMeetsTheInvariant
  exact ⟨powerOn_inv standardConfig, powerOn_inv⟩

/-- Settles O13: the fetch keeps the invariant, and then every instruction and every decode error does. -/
theorem stepKeepsTheInvariant : Obligations.StepKeepsTheInvariant := by
  unfold Obligations.StepKeepsTheInvariant
  exact fun _ _ h hstep => step_inv h hstep

/-- Settles O14, by the operation; a batch by induction over its steps. -/
theorem hostOperationsKeepTheInvariant : Obligations.HostOperationsKeepTheInvariant := by
  unfold Obligations.HostOperationsKeepTheInvariant
  exact fun op _ _ h hr => perform_inv op h hr

/-! ### Batches: O47, O48 -/

/-- Settles O47: the batch's loop is the core's run, and its end decrements the timers unless the engine is Halted. -/
theorem batchIsStepsThenOneDecrement : Obligations.BatchIsStepsThenOneDecrement := by
  unfold Obligations.BatchIsStepsThenOneDecrement
  intro n s
  obtain ⟨t, ht⟩ := runSteps_total n s
  refine ⟨t, t.endBatch, (run_eq_runSteps n s).trans ht, runBatch_of_runSteps ht, State.endBatch_of_halted, fun hm => ?_⟩
  rw [State.endBatch_of_not_halted hm]
  exact ⟨countDown_toNat _, countDown_toNat _, .tickTimers t (by simp) (by simp)⟩

/-- Settles O48: no step changes the two components, so by induction no batch does. -/
theorem batchKeepsKeysAndParameters : Obligations.BatchKeepsKeysAndParameters := by
  unfold Obligations.BatchKeepsKeysAndParameters
  intro n s u h
  obtain ⟨t, ht, rfl⟩ := runBatch_eq_next h
  obtain ⟨hkeysEnd, hcfgEnd⟩ := t.endBatch_keys_cfg
  have hstep (a b : State) (ha : a.keys = s.keys ∧ a.cfg = s.cfg) (hab : step a = .next b) :
      b.keys = s.keys ∧ b.cfg = s.cfg := by
    obtain ⟨hkeys, hcfg⟩ := step_keys_cfg hab
    exact ⟨hkeys.trans ha.1, hcfg.trans ha.2⟩
  obtain ⟨hkeys, hcfg⟩ := runSteps_induction hstep ⟨rfl, rfl⟩ ht
  exact ⟨hkeysEnd.trans hkeys, hcfgEnd.trans hcfg⟩

/-! ### Modes and refusals: O49 to O51 -/

/-- Settles O50, by the operation: `load` leaves Running, `set_key` completes a wait, a step or a batch starts from Running,
and the other four operations leave the mode. -/
theorem modeTransitions : Obligations.ModeTransitions := by
  unfold Obligations.ModeTransitions
  intro op s r hr hne
  cases op with
  | load rom =>
    cases hr
    rcases load_cases rom s with hload | ⟨rom', hload⟩
    · exact absurd (by rw [hload]) hne
    · exact .inl ⟨rom, rfl, by rw [hload], by rw [hload]; exact s.loaded_mode rom'⟩
  | step =>
    obtain ⟨t, ht⟩ := step_total s
    cases (perform_step ht).symm.trans hr
    by_cases hm : s.mode = .running
    · rcases Mode.halted_or_awaitingKey (fun he => hne (he.trans hm.symm)) with hhalt | hwait
      · exact .inr (.inr (.inl ⟨hm, .inl rfl, hhalt⟩))
      · exact .inr (.inr (.inr ⟨hm, .inl rfl, hwait, fun _ => decode_of_step_awaitingKey hm ht hwait⟩))
    · cases (step_of_not_running hm).symm.trans ht
      exact absurd rfl hne
  | runBatch n =>
    obtain ⟨t, ht⟩ := runSteps_total n s
    cases (perform_runBatch (runBatch_of_runSteps ht)).symm.trans hr
    by_cases hm : s.mode = .running
    · rcases Mode.halted_or_awaitingKey (fun he => hne (he.trans hm.symm)) with hhalt | hwait
      · exact .inr (.inr (.inl ⟨hm, .inr ⟨n, rfl⟩, hhalt⟩))
      · exact .inr (.inr (.inr ⟨hm, .inr ⟨n, rfl⟩, hwait, by simp⟩))
    · cases (runSteps_of_not_running hm n).symm.trans ht
      exact absurd s.endBatch_mode hne
  | setKey k p =>
    rcases Nat.lt_or_ge 15 k with hbad | hk
    · cases (perform_setKey_of_gt hbad p s).symm.trans hr
    · rcases setKey_cases (Nat.lt_succ_iff.mpr hk) p s with ⟨hm, rfl, hkey⟩ | ⟨-, hkey⟩
      · cases (perform_setKey hkey).symm.trans hr
        exact .inr (.inl ⟨hm, ⟨k, rfl⟩, rfl⟩)
      · cases (perform_setKey hkey).symm.trans hr
        exact absurd rfl hne
  | readFrame | readStatus | readDiag | clearDiag =>
    cases hr
    exact absurd rfl hne

/-- Settles O49: of the four transitions of the mode only that of `load` starts from Halted. -/
theorem haltedIsAbsorbing : Obligations.HaltedIsAbsorbing := by
  unfold Obligations.HaltedIsAbsorbing
  intro s hunsafe
  have hm : s.mode = .halted := not_not.mp hunsafe
  have hnr : s.mode ≠ .running := by simp [hm]
  refine ⟨step_of_not_running hnr, fun n => ?batch, fun k p hk => ?key, fun op r hr hsafe => ?leaves⟩
  case batch =>
    have hbatch := runBatch_of_runSteps (runSteps_of_not_running hnr n)
    rwa [State.endBatch_of_halted hm] at hbatch
  case key => exact ⟨_, setKey_latch hk (.inl (by simp [hm])), .setKeyBit s _ p (List.mem_singleton.mpr rfl)⟩
  case leaves =>
    have hne : r.state.mode ≠ s.mode := fun he => hsafe (he.trans hm)
    rcases modeTransitions op s r hr hne with ⟨rom, hop, hreply, -⟩ | ⟨hwait, -⟩ | ⟨hrun, -⟩ | ⟨hrun, -⟩
    · exact ⟨rom, hop, hreply⟩
    · exact absurd (hm.symm.trans hwait) (by decide)
    · exact absurd hrun hnr
    · exact absurd hrun hnr

/-- Settles O51: steps and batches always answer, and `set_key` answers for every index up to 15. -/
theorem onlyABadKeyIndexIsRefused : Obligations.OnlyABadKeyIndexIsRefused := by
  unfold Obligations.OnlyABadKeyIndexIsRefused
  intro op s
  cases op with
  | load | readFrame | readStatus | readDiag | clearDiag => exact .inl ⟨_, rfl⟩
  | step =>
    obtain ⟨t, ht⟩ := step_total s
    exact .inl ⟨_, perform_step ht⟩
  | runBatch n =>
    obtain ⟨t, ht⟩ := runBatch_total n s
    exact .inl ⟨_, perform_runBatch ht⟩
  | setKey k p =>
    rcases Nat.lt_or_ge 15 k with hbad | hk
    · exact .inr ⟨k, p, rfl, hbad, perform_setKey_of_gt hbad p s⟩
    · rcases setKey_cases (Nat.lt_succ_iff.mpr hk) p s with ⟨-, -, hkey⟩ | ⟨-, hkey⟩ <;>
        exact .inl ⟨_, perform_setKey hkey⟩

/-! ### load, set_key, the reads: O43 to O46, O52 -/

/-- Settles O43: memory by the three ranges of addresses, every other component from the power-on state. -/
theorem loadResetsTheMachine : Obligations.LoadResetsTheMachine := by
  unfold Obligations.LoadResetsTheMachine
  intro rom s hlen
  refine ⟨s.loaded rom, load_of_le hlen s, fun k hk => s.loaded_memRead_rom hlen hk, fun k hk => ?font,
    fun a ha hfont hrom => ?zero, ?rest⟩
  case font => rw [s.loaded_memRead_outside hlen (by omega) (by omega), resetByte_font _ hk]
  case zero => rw [s.loaded_memRead_outside hlen ha hrom, resetByte_outside _ (by omega)]
  case rest =>
    rw [s.loaded_eq rom]
    refine ⟨fun r => ?_, rfl, rfl, rfl, rfl, rfl, fun k hk => ?_, rfl, rfl, fun px py _ _ => ?_, rfl, rfl, rfl⟩
    · simp [State.getV, State.powerOn]
    · simp [State.powerOn]
    · exact blank_pixel px py

/-- Settles O44, by the ROM's length and the policy. -/
theorem oversizeRomByPolicy : Obligations.OversizeRomByPolicy := by
  unfold Obligations.OversizeRomByPolicy
  intro rom s
  refine ⟨fun hfits => by rw [load_of_le hfits], fun hlarge => ⟨load_reject hlarge, fun hp => ?_⟩⟩
  have hcut : (rom.take 3584).length ≤ 3584 := List.length_take_le _ _
  rw [load_truncate hlarge hp, load_of_le hcut]
  exact ⟨rfl, rfl⟩

/-- Settles O45: loading no byte leaves the power-on state, whose memory is zero at 0x200 and 0x201. -/
theorem powerOnIsTheLoadOfAnEmptyRom : Obligations.PowerOnIsTheLoadOfAnEmptyRom := by
  unfold Obligations.PowerOnIsTheLoadOfAnEmptyRom
  refine ⟨fun s => ⟨rfl, .setDraws (s.loaded []) 0 (List.mem_singleton.mpr rfl)⟩, fun cfg => ?_⟩
  have hword : (State.powerOn cfg).fetchWord = 0x0000#16 := by
    have hhi : (State.powerOn cfg).memRead 0x200 = 0#8 := by
      rw [State.powerOn_memRead, resetByte_outside _ (by decide)]
    have hlo : (State.powerOn cfg).memRead 0x201 = 0#8 := by
      rw [State.powerOn_memRead, resetByte_outside _ (by decide)]
    exact congrArg₂ wordOfBytes hhi hlo
  have hsys : decode 0x0000#16 = .ok (.sys 0x000#12) := decode_sys (nnn := 0x000#12) (by decide) (by decide)
  have hstep := step_of_illegal (s := State.powerOn cfg) rfl (.inr ⟨_, by rw [hword]; exact hsys⟩)
  rw [hword] at hstep
  exact ⟨hword, _, hstep, decodeErrorLeaves_raise _ _⟩

/-- Settles O46, by the index, and then by whether the call completes a wait. -/
theorem setKeyWritesTheLatch : Obligations.SetKeyWritesTheLatch := by
  unfold Obligations.SetKeyWritesTheLatch
  refine ⟨fun k p s hbad => ⟨setKey_of_gt hbad p s, fun ops => ?refused⟩, fun k hk p s => ?answers⟩
  case refused => simp [performAll, perform_setKey_of_gt hbad]
  case answers =>
    have hother (j : Nat) (hj : j < 16) (hne : j ≠ k) : (s.keys.set k p hk)[j] = s.keys[j] :=
      Vector.getElem_set_ne hk hj hne.symm
    rcases setKey_cases hk p s with ⟨hm, rfl, hkey⟩ | ⟨hlatch, hkey⟩
    · refine ⟨_, hkey, Vector.getElem_set_self hk, hother, fun _ _ => ⟨?value, rfl, ?frame⟩, fun hlatch => ?noLatch⟩
      case value => exact State.completeWait_getV _ ⟨k, hk⟩
      case frame => exact (SameExcept.setKeyBit s _ true (by simp)).trans (.completeWait _ _ (by simp) (by simp))
      case noLatch => simp [hm] at hlatch
    · refine ⟨_, hkey, Vector.getElem_set_self hk, hother, fun hm hp => ?noPress, fun _ => ?frame⟩
      case noPress => simp [hm, hp] at hlatch
      case frame => exact .setKeyBit s _ p (List.mem_singleton.mpr rfl)

/-- Settles O52: `read_frame` lists the pixels in the order of R29. -/
theorem readsChangeNothing : Obligations.ReadsChangeNothing := by
  unfold Obligations.ReadsChangeNothing
  refine fun s => ⟨⟨readFrame s, rfl, rfl, rfl, ?length, fun px py hx hy => ?pixel⟩, rfl, rfl,
    clearDiag s, rfl, rfl, .setDiag s _ (List.mem_singleton.mpr rfl)⟩
  case length => simp [readFrame]
  case pixel =>
    have hindex : py * 64 + px < 2048 := by omega
    have hcolumn : (py * 64 + px) % 64 = px := by omega
    have hrow : (py * 64 + px) / 64 = py := by omega
    simp [readFrame, hindex, Config.displayW, hcolumn, hrow]

/-! ### The key wait: O35 -/

namespace Sys2Proof.Machine

/-- `n` batches without a step: each timer loses one per batch, floored at zero (R222). -/
def State.tickTimersBy (n : Nat) (s : State) : State := State.tickTimers^[n] s

theorem State.tickTimersBy_succ (n : Nat) (s : State) : s.tickTimersBy (n + 1) = s.tickTimers.tickTimersBy n := rfl

theorem SameExcept.tickTimersBy {L : List Component} (n : Nat) (s : State) (hd : .delay ∈ L) (hs : .sound ∈ L) :
    SameExcept L s (s.tickTimersBy n) := by
  induction n generalizing s with
  | zero => exact .refl L s
  | succ n ih => exact (SameExcept.tickTimers s hd hs).trans (ih s.tickTimers)

theorem State.tickTimersBy_delay (n : Nat) (s : State) : (s.tickTimersBy n).delay.toNat = s.delay.toNat - n := by
  induction n generalizing s with
  | zero => rfl
  | succ n ih =>
    have hone : s.tickTimers.delay.toNat = s.delay.toNat - 1 := countDown_toNat _
    rw [State.tickTimersBy_succ, ih, hone]
    omega

theorem State.tickTimersBy_sound (n : Nat) (s : State) : (s.tickTimersBy n).sound.toNat = s.sound.toNat - n := by
  induction n generalizing s with
  | zero => rfl
  | succ n ih =>
    have hone : s.tickTimers.sound.toNat = s.sound.toNat - 1 := countDown_toNat _
    rw [State.tickTimersBy_succ, ih, hone]
    omega

/-- While the engine waits, batches of any sizes only count the timers down. -/
theorem performAll_batches_of_awaitingKey (batches : List Nat) (ops : List HostOp) {s : State} (h : s.mode = .awaitingKey) :
    performAll (batches.map .runBatch ++ ops) s = performAll ops (s.tickTimersBy batches.length) := by
  induction batches generalizing s with
  | nil => rfl
  | cons n batches ih =>
    have hbatch := runBatch_of_runSteps (runSteps_of_not_running (s := s) (by simp [h]) n)
    rw [State.endBatch_of_not_halted (by simp [h])] at hbatch
    rw [List.map_cons, List.cons_append, performAll_cons (perform_runBatch hbatch), ih (s := s.tickTimers) h,
      List.length_cons, State.tickTimersBy_succ]

/-- What Fx0A, batches and a release leave: the state before them, waiting, with the timers counted down and one key up. -/
def State.waitedFor (s : State) (x : Reg) (batches : Nat) (r : Fin 16) : State :=
  (((s.advancePc.setWaitReg x).setMode .awaitingKey).tickTimersBy batches).setKeyBit r false

theorem State.waitedFor_mode_waitReg_pc (s : State) (x : Reg) (batches : Nat) (r : Fin 16) :
    (s.waitedFor x batches r).mode = .awaitingKey ∧ (s.waitedFor x batches r).waitReg = x ∧
      (s.waitedFor x batches r).pc = s.pc + 2#16 := by
  have htick := SameExcept.tickTimersBy (L := [.delay, .sound]) batches
    ((s.advancePc.setWaitReg x).setMode .awaitingKey) (by simp) (by simp)
  exact ⟨htick .mode (by simp), htick .waitReg (by simp), htick .pc (by simp)⟩

theorem SameExcept.waitedFor (s : State) (x : Reg) (batches : Nat) (r : Fin 16) :
    SameExcept [.pc, .mode, .waitReg, .delay, .sound, .keys] s (s.waitedFor x batches r) :=
  ((((SameExcept.advancePc s (by simp)).trans (.setWaitReg _ x (by simp))).trans (.setMode _ _ (by simp))).trans
    (.tickTimersBy batches _ (by simp) (by simp))).trans (.setKeyBit _ r false (by simp))

theorem performAll_wait {s : State} {x : Reg} (hm : s.mode = .running) (hw : s.fetchWord = formatXNN 0xF#4 x 0x0A#8)
    (batches : List Nat) {r : Nat} (hr : r < 16) :
    performAll (.step :: (batches.map .runBatch ++ [.setKey r false])) s =
      .next (s.waitedFor x batches.length ⟨r, hr⟩) := by
  have hstep := (step_of_decode_ok hm (by rw [hw]; exact decode_ldVxK x)).trans (exec_ldVxK x s.advancePc)
  rw [performAll_cons (perform_step hstep), performAll_batches_of_awaitingKey batches _ rfl,
    performAll_cons (perform_setKey (setKey_latch hr (.inr rfl)))]
  rfl

end Sys2Proof.Machine

/-- Settles O35: the wait ends with the press alone, since batches only count timers down and a release writes the latch. -/
theorem keyWaitHoldsUntilAPress : Obligations.KeyWaitHoldsUntilAPress := by
  unfold Obligations.KeyWaitHoldsUntilAPress
  intro x s batches k r hm hw hk hr
  obtain ⟨hmode, hwait, hpc⟩ := s.waitedFor_mode_waitReg_pc x batches.length ⟨r, hr⟩
  refine ⟨_, _, performAll_wait hm hw batches hr, hmode, hwait, hpc, State.tickTimersBy_delay _ _,
    State.tickTimersBy_sound _ _, .waitedFor s x _ _, performAll_cons (perform_setKey (setKey_press hk hmode)) [],
    rfl, ?key, ?frame⟩
  case key =>
    have hkey := State.completeWait_getV ((s.waitedFor x batches.length ⟨r, hr⟩).setKeyBit ⟨k, hk⟩ true) ⟨k, hk⟩
    rwa [State.setKeyBit_waitReg, hwait] at hkey
  case frame =>
    refine (SameExcept.setKeyBit _ ⟨k, hk⟩ true (by simp)).trans (.completeWait _ _ ?_ (by simp))
    rw [State.setKeyBit_waitReg, hwait]
    simp

namespace Sys2Proof.Machine

/-! ### Sprites (R150, R152) -/

/-- The sprite's bit that falls on pixel `(px, py)`, and false where none does: its row and column are the pixel's distances
from the start position on the two rings. -/
def State.spriteBit (s : State) (x y : Reg) (n : Nibble) (px py : Nat) : Bool :=
  let row := ringDist 32 ((s.getV y).toNat % 32) py
  let column := ringDist 64 ((s.getV x).toNat % 64) px
  decide (row < n.toNat) && decide (column < 8) && (s.memRead (s.atI row)).getLsbD (7 - column)

theorem spriteCovers_iff (s : State) (x y : Reg) (n : Nibble) {px py : Nat} (hx : px < 64) (hy : py < 32) :
    SpriteCovers s x y n px py ↔ s.spriteBit x y n px py = true := by
  have hn := n.isLt
  simp only [State.spriteBit, Bool.and_eq_true, decide_eq_true_eq, and_assoc]
  constructor
  · rintro ⟨r, c, hr, hc, hbit, rfl, rfl⟩
    have hcolumn : ringDist 64 ((s.getV x).toNat % 64) (((s.getV x).toNat + c) % 64) = c := by
      unfold ringDist; omega
    have hrow : ringDist 32 ((s.getV y).toNat % 32) (((s.getV y).toNat + r) % 32) = r := by
      unfold ringDist; omega
    rw [hcolumn, hrow]
    exact ⟨hr, hc, hbit⟩
  · rintro ⟨hr, hc, hbit⟩
    exact ⟨_, _, hr, hc, hbit, by unfold ringDist; omega, by unfold ringDist; omega⟩

theorem State.drawn_eq (s : State) (x y : Reg) (n : Nibble) :
    s.drawn x y n = drawRows (fun r => s.memRead (s.atI r)) ((s.getV x).toNat % 64) ((s.getV y).toNat % 32) n.toNat
      (s.display, false) := rfl

theorem State.drawn_pixel (s : State) (x y : Reg) (n : Nibble) {px py : Nat} (hx : px < 64) (hy : py < 32) :
    pixelAt (s.drawn x y n).1 px py = (s.pixel px py ^^ s.spriteBit x y n px py) := by
  have hn := n.isLt
  rw [State.drawn_eq, drawRows_pixel _ (Nat.mod_lt _ (by decide)) (Nat.mod_lt _ (by decide)) (by omega) _ hx hy]
  rfl

theorem State.drawn_pixel_of_covers {s : State} {x y : Reg} {n : Nibble} {px py : Nat} (hx : px < 64) (hy : py < 32)
    (h : SpriteCovers s x y n px py) : pixelAt (s.drawn x y n).1 px py = !s.pixel px py := by
  rw [State.drawn_pixel s x y n hx hy, (spriteCovers_iff s x y n hx hy).mp h, Bool.xor_true]

theorem State.drawn_pixel_of_not_covers {s : State} {x y : Reg} {n : Nibble} {px py : Nat} (hx : px < 64) (hy : py < 32)
    (h : ¬ SpriteCovers s x y n px py) : pixelAt (s.drawn x y n).1 px py = s.pixel px py := by
  rw [State.drawn_pixel s x y n hx hy, Bool.eq_false_iff.mpr (mt (spriteCovers_iff s x y n hx hy).mpr h), Bool.xor_false]

/-- The collision flag (R152). -/
theorem State.drawn_hit (s : State) (x y : Reg) (n : Nibble) :
    (s.drawn x y n).2 = true ↔ ∃ px py : Nat, SpriteCovers s x y n px py ∧ s.pixel px py = true := by
  have hn := n.isLt
  rw [State.drawn_eq, drawRows_hit _ (Nat.mod_lt _ (by decide)) (Nat.mod_lt _ (by decide)) (by omega)]
  simp only [Nat.mod_add_mod, Bool.false_eq_true, false_or]
  constructor
  · rintro ⟨r, hr, c, hc, hbit, hlit⟩
    exact ⟨_, _, ⟨r, c, hr, hc, hbit, rfl, rfl⟩, hlit⟩
  · rintro ⟨_, _, ⟨r, c, hr, hc, hbit, rfl, rfl⟩, hlit⟩
    exact ⟨r, hr, c, hc, hbit, hlit⟩

/-- A covered pixel is on the display. -/
theorem SpriteCovers.lt {s : State} {x y : Reg} {n : Nibble} {px py : Nat} (h : SpriteCovers s x y n px py) :
    px < 64 ∧ py < 32 := by
  obtain ⟨r, c, -, -, -, rfl, rfl⟩ := h
  exact ⟨Nat.mod_lt _ (by decide), Nat.mod_lt _ (by decide)⟩

/-- A sprite's place depends on its two registers, `I` and memory. -/
theorem SpriteCovers.congr {s t : State} {x y : Reg} (n : Nibble) (px py : Nat) (hx : t.getV x = s.getV x)
    (hy : t.getV y = s.getV y) (hi : t.i = s.i) (hmem : ∀ a, t.memRead a = s.memRead a) :
    SpriteCovers t x y n px py ↔ SpriteCovers s x y n px py := by
  simp only [SpriteCovers, hx, hy, hi, hmem]

end Sys2Proof.Machine

/-! ### Display: O31, O32 -/

/-- Settles O31: pixel by pixel, and the collision flag in VF. -/
theorem drawTogglesTheCoveredPixels : Obligations.DrawTogglesTheCoveredPixels := by
  unfold Obligations.DrawTogglesTheCoveredPixels
  intro x y n
  refine ⟨decode_drw x y n, fun s => ⟨_, exec_drw x y n s, fun px py hx hy => ⟨?covered, ?uncovered⟩, ?hit, ?noHit,
    ?frame⟩⟩
  case covered => exact fun h => State.drawn_pixel_of_covers hx hy h
  case uncovered => exact fun h => State.drawn_pixel_of_not_covers hx hy h
  case hit =>
    rw [State.setFlag_getV_vf, flagByte_eq_one_iff]
    exact (s.drawn_hit x y n).mpr
  case noHit =>
    rw [State.setFlag_getV_vf, flagByte_eq_zero_iff, ← Bool.not_eq_true]
    exact mt (s.drawn_hit x y n).mp
  case frame => exact exec_same (exec_drw x y n s)

/-- Settles O32: both draws cover the same pixels, each is toggled twice, and the second draw clears a covered pixel exactly
when the first one lit it. -/
theorem drawingTwiceRestoresTheDisplay : Obligations.DrawingTwiceRestoresTheDisplay := by
  unfold Obligations.DrawingTwiceRestoresTheDisplay
  intro x y n s t h hx hy
  cases (exec_drw x y n s).symm.trans h
  set t := (s.setDisplay (s.drawn x y n).1).setFlag (s.drawn x y n).2
  have hcovers (px py : Nat) : SpriteCovers t x y n px py ↔ SpriteCovers s x y n px py :=
    SpriteCovers.congr n px py hx hy rfl fun _ => rfl
  have hcovered {px py : Nat} (hc : SpriteCovers s x y n px py) : t.pixel px py = !s.pixel px py :=
    State.drawn_pixel_of_covers hc.lt.1 hc.lt.2 hc
  refine ⟨_, exec_drw x y n t, Bitmap.ext_pixels fun px py hpx hpy => ?restored, ?flag⟩
  case restored =>
    by_cases hc : SpriteCovers s x y n px py
    · exact (State.drawn_pixel_of_covers hpx hpy ((hcovers px py).mpr hc)).trans (by rw [hcovered hc, Bool.not_not]; rfl)
    · exact (State.drawn_pixel_of_not_covers hpx hpy (mt (hcovers px py).mp hc)).trans
        (State.drawn_pixel_of_not_covers hpx hpy hc)
  case flag =>
    rw [State.setFlag_getV_vf, flagByte_eq_one_iff, State.drawn_hit]
    refine exists_congr fun px => exists_congr fun py => ?_
    rw [hcovers]
    refine and_congr_right fun hc => ?_
    rw [hcovered hc, Bool.not_eq_true']

namespace Sys2Proof.Machine

/-! ### Block transfers (R191, R192) -/

/-- Register `r` of a stored block is read wherever an address agrees with its place modulo 4096 (R51). -/
theorem State.storeRegs_memRead_reg (s : State) {a n c : Nat} (hn : n ≤ 16) {r : Reg} (hr : r.toNat < n)
    (hc : c % 4096 = (a + r.toNat) % 4096) : (s.storeRegs a n).memRead c = s.getV r := by
  have hplace : (c + (4096 - a % 4096)) % 4096 = r.toNat := by omega
  rw [State.storeRegs_memRead s a n hn, hplace, if_pos hr, BitVec.ofNat_toNat, BitVec.setWidth_eq]

theorem State.loadRegs_getV_of_lt (s : State) {a n : Nat} (hn : n ≤ 16) {r : Reg} (hr : r.toNat < n) :
    (s.loadRegs a n).getV r = s.memRead (a + r.toNat) := by
  rw [State.loadRegs_getV s a n hn, if_pos hr]

/-! ### Uniqueness of the canonical form (log entry 4) -/

/-- No address below the start of a rising list is listed. -/
theorem Memory.lookup_of_lt {lo a : Nat} (ha : a < lo) {m : Memory} (hm : m.risingFrom lo = true) : m.lookup a = none := by
  induction m generalizing lo with
  | nil => rfl
  | cons kc rest ih =>
    obtain ⟨k, b⟩ := kc
    simp only [Memory.risingFrom, Bool.and_eq_true, decide_eq_true_eq] at hm
    obtain ⟨hk, hrest⟩ := hm
    rw [Memory.lookup, if_neg (by omega)]
    exact ih (by omega) hrest

/-- The first entry of a rising list has the least address that is listed. -/
theorem Memory.head_le {k k' lo : Nat} {b b' : Byte} {rest rest' : Memory}
    (hm' : Memory.risingFrom lo ((k', b') :: rest') = true)
    (h : Memory.lookup ((k, b) :: rest) k = Memory.lookup ((k', b') :: rest') k) : k' ≤ k := by
  by_contra hlt
  simp only [Memory.risingFrom, Bool.and_eq_true, decide_eq_true_eq] at hm'
  have hfrom : Memory.risingFrom k' ((k', b') :: rest') = true := by simp [Memory.risingFrom, hm'.2]
  rw [Memory.lookup_of_lt (by omega) hfrom, Memory.lookup, if_pos rfl] at h
  cases h

/-- Two rising lists that list the same bytes are equal. -/
theorem Memory.eq_of_lookup {lo : Nat} {m m' : Memory} (hm : m.risingFrom lo = true) (hm' : m'.risingFrom lo = true)
    (h : ∀ a, m.lookup a = m'.lookup a) : m = m' := by
  induction m generalizing lo m' with
  | nil =>
    cases m' with
    | nil => rfl
    | cons kc' rest' => simpa [Memory.lookup] using h kc'.1
  | cons kc rest ih =>
    obtain ⟨k, b⟩ := kc
    cases m' with
    | nil => simpa [Memory.lookup] using h k
    | cons kc' rest' =>
      obtain ⟨k', b'⟩ := kc'
      obtain rfl : k = k' := Nat.le_antisymm (Memory.head_le hm (h k').symm) (Memory.head_le hm' (h k))
      obtain rfl : b = b' := by simpa [Memory.lookup] using h k
      simp only [Memory.risingFrom, Bool.and_eq_true, decide_eq_true_eq] at hm hm'
      have hrest : rest = rest' := ih hm.2 hm'.2 fun a => by
        by_cases ha : k = a
        · rw [Memory.lookup_of_lt (by omega) hm.2, Memory.lookup_of_lt (by omega) hm'.2]
        · simpa [Memory.lookup, ha] using h a
      rw [hrest]

theorem Memory.mem_of_lookup {m : Memory} {a : Nat} {b : Byte} (h : m.lookup a = some b) : (a, b) ∈ m := by
  induction m with
  | nil => cases h
  | cons kc rest ih =>
    obtain ⟨k, c⟩ := kc
    rw [Memory.lookup] at h
    split at h
    case isTrue hk =>
      cases h
      rw [hk]
      exact List.mem_cons_self
    case isFalse => exact List.mem_cons_of_mem _ (ih h)

/-- In a canonical memory an address is listed exactly when it reads as something else than the reset contents. -/
theorem Memory.lookup_of_wf {font : Vector Byte 80} {m : Memory} (hm : Memory.wf font m = true) (a : Nat) :
    m.lookup a = if a < 4096 ∧ Memory.read font m a ≠ resetByte font a then some (Memory.read font m a) else none := by
  obtain ⟨-, hcells⟩ := Memory.wf_iff.mp hm
  cases h : m.lookup a with
  | none => simp [Memory.read, h]
  | some b =>
    obtain ⟨ha, hb⟩ := hcells _ (Memory.mem_of_lookup h)
    have hread : Memory.read font m a = b := by simp [Memory.read, h]
    rw [hread, if_pos ⟨ha, hb⟩]

end Sys2Proof.Machine

/-! ### Memory: O38 to O42 -/

/-- Settles O38: register `r` of the block stands `r` places above `I`, and the frame is that of the instruction. -/
theorem registersAreStored : Obligations.RegistersAreStored := by
  unfold Obligations.RegistersAreStored
  intro x
  have hx := x.isLt
  refine ⟨decode_ldMemVx x, fun s => ⟨_, exec_ldMemVx x s, fun r hr => ?stored, ?frame⟩⟩
  case stored => exact s.storeRegs_memRead_reg (by omega) (by omega) rfl
  case frame => exact exec_same (exec_ldMemVx x s)

/-- Settles O39: the mirror image of the store, byte by byte into the registers. -/
theorem registersAreLoaded : Obligations.RegistersAreLoaded := by
  unfold Obligations.RegistersAreLoaded
  intro x
  have hx := x.isLt
  refine ⟨decode_ldVxMem x, fun s => ⟨_, exec_ldVxMem x s, fun r hr => ?loaded, ?frame⟩⟩
  case loaded => exact s.loadRegs_getV_of_lt (by omega) (by omega)
  case frame => exact exec_same (exec_ldVxMem x s)

/-- Settles O40: a loaded register is the byte kept since the store, which is the register stored. -/
theorem storeThenLoadRestoresRegisters : Obligations.StoreThenLoadRestoresRegisters := by
  unfold Obligations.StoreThenLoadRestoresRegisters
  intro x s t u h hkept hi
  have hx := x.isLt
  cases (exec_ldMemVx x s).symm.trans h
  refine ⟨_, exec_ldVxMem x u, fun r hr => ?_⟩
  rw [State.storeRegs_i] at hi hkept
  calc (u.loadRegs (u.atI 0) (x.toNat + 1)).getV r
      = u.memRead (u.atI 0 + r.toNat) := u.loadRegs_getV_of_lt (by omega) (by omega)
    _ = u.memRead (s.i.toNat + r.toNat) := by rw [State.atI, hi, Nat.add_zero]
    _ = (s.storeRegs (s.atI 0) (x.toNat + 1)).memRead (s.i.toNat + r.toNat) := hkept r.toNat hr
    _ = s.getV r := s.storeRegs_memRead_reg (by omega) (by omega) rfl

/-- Settles O41: the two fetched bytes are those of two neighbouring registers of the block. -/
theorem storedWordIsFetched : Obligations.StoredWordIsFetched := by
  unfold Obligations.StoredWordIsFetched
  intro x r s t p h hr hp
  have hx := x.isLt
  cases (exec_ldMemVx x s).symm.trans h
  have hnext : (r + 1#4).toNat = r.toNat + 1 := by
    rw [BitVec.toNat_add, BitVec.toNat_ofNat]
    omega
  have hi : s.atI 0 = s.i.toNat := rfl
  have hhi : (s.storeRegs (s.atI 0) (x.toNat + 1)).memRead p.toNat = s.getV r :=
    s.storeRegs_memRead_reg (by omega) (by omega) (by omega)
  have hlo : (s.storeRegs (s.atI 0) (x.toNat + 1)).memRead (p.toNat + 1) = s.getV (r + 1#4) :=
    s.storeRegs_memRead_reg (by omega) (by omega) (by omega)
  exact congrArg₂ wordOfBytes hhi hlo

/-- Settles O42: what a canonical memory reads fixes what it lists, and a rising list is fixed by what it lists. -/
theorem canonicalMemoryIsUnique : Obligations.CanonicalMemoryIsUnique := by
  unfold Obligations.CanonicalMemoryIsUnique
  intro font m m' hm hm' hread
  refine Memory.eq_of_lookup (Memory.wf_iff.mp hm).1 (Memory.wf_iff.mp hm').1 fun a => ?_
  rw [Memory.lookup_of_wf hm, Memory.lookup_of_wf hm']
  by_cases ha : a < 4096
  · rw [hread a ha]
  · simp [ha]

namespace Sys2Proof.Machine

/-! ### The two components that one instruction each reads or overwrites

Noninterference for `sound` (R26) and for the count of draws (R235) is one fact: an instruction commutes with any change of
the two, but Fx18, which overwrites `sound`, and Cxnn, which uses the count. -/

/-- Change `sound` and the count of draws. -/
def State.mapUnread (f : Byte → Byte) (g : Nat → Nat) (s : State) : State :=
  (s.setSound (f s.sound)).setDraws (g s.draws)

section Unread

variable {f : Byte → Byte} {g : Nat → Nat}

theorem State.skipIf_mapUnread (s : State) (c : Bool) :
    (s.mapUnread f g).skipIf c = (s.skipIf c).mapUnread f g := by
  cases c <;> rfl

theorem State.raise_decodeError_mapUnread (s : State) (w : Word) :
    (s.mapUnread f g).raise .decodeError w = (s.raise .decodeError w).mapUnread f g := by
  cases hp : s.cfg.decodeErrorPolicy with
  | skip =>
    rw [State.raise_decodeError_skip hp, State.raise_decodeError_skip (s := s.mapUnread f g) hp]
    rfl
  | halt =>
    rw [State.raise_decodeError_halt hp, State.raise_decodeError_halt (s := s.mapUnread f g) hp]
    rfl

theorem State.storeRegs_mapUnread (s : State) (a n : Nat) :
    (s.mapUnread f g).storeRegs a n = (s.storeRegs a n).mapUnread f g := by
  induction n with
  | zero => rfl
  | succ n ih =>
    rw [State.storeRegs, ih]
    rfl

theorem State.loadRegs_mapUnread (s : State) (a n : Nat) :
    (s.mapUnread f g).loadRegs a n = (s.loadRegs a n).mapUnread f g := by
  induction n with
  | zero => rfl
  | succ n ih =>
    rw [State.loadRegs, ih]
    rfl

theorem exec_mapUnread {i : Instr} {s t : State} (hsound : f = id ∨ ∀ x, i ≠ .ldStVx x)
    (hdraws : g = id ∨ ∀ x nn, i ≠ .rnd x nn) (h : exec i s = .next t) :
    exec i (s.mapUnread f g) = .next (t.mapUnread f g) := by
  cases i with
  | ret =>
    rcases s.pop_cases with ⟨hnil, -⟩ | ⟨rest, w, happend, -⟩
    · cases (exec_ret_of_nil hnil).symm.trans h
      exact exec_ret_of_nil (s := s.mapUnread f g) hnil
    · cases (exec_ret_of_append happend).symm.trans h
      exact exec_ret_of_append (s := s.mapUnread f g) happend
  | sys nnn =>
    cases h
    rw [exec_sys, State.raise_decodeError_mapUnread]
  | call nnn =>
    rcases Nat.lt_or_ge s.sp 16 with hroom | hfull
    · cases (exec_call_of_room hroom nnn).symm.trans h
      exact exec_call_of_room (s := s.mapUnread f g) hroom nnn
    · cases (exec_call_of_full hfull nnn).symm.trans h
      exact exec_call_of_full (s := s.mapUnread f g) hfull nnn
  | seImm _ _ | sneImm _ _ | seReg _ _ | sneReg _ _ | skp _ | sknp _ =>
    cases h
    exact congrArg _ (State.skipIf_mapUnread s _)
  | ldMemVx x =>
    cases h
    exact congrArg _ (State.storeRegs_mapUnread s _ _)
  | ldVxMem x =>
    cases h
    exact congrArg _ (State.loadRegs_mapUnread s _ _)
  | ldStVx x =>
    obtain rfl : f = id := hsound.resolve_right fun hne => hne x rfl
    cases h
    rfl
  | rnd x nn =>
    obtain rfl : g = id := hdraws.resolve_right fun hne => hne x nn rfl
    cases h
    rfl
  | cls | jp _ | jpV0 _ | ldImm _ _ | addImm _ _ | ldReg _ _ | or _ _ | and _ _ | xor _ _ | addReg _ _ | sub _ _
  | shr _ _ | subn _ _ | shl _ _ | ldI _ | addI _ | ldF _ | drw _ _ _ | ldVxDt _ | ldVxK _ | ldDtVx _ | ldB _ =>
    cases h
    rfl

theorem step_mapUnread {s t : State} (hsound : f = id ∨ ∀ x, decode s.fetchWord ≠ .ok (.ldStVx x))
    (hdraws : g = id ∨ ∀ x nn, decode s.fetchWord ≠ .ok (.rnd x nn)) (h : step s = .next t) :
    step (s.mapUnread f g) = .next (t.mapUnread f g) := by
  rcases step_cases s with ⟨hm, hs⟩ | ⟨hm, i, hd, hs⟩ | ⟨hm, he, hs⟩
  · cases hs.symm.trans h
    exact step_of_not_running (s := s.mapUnread f g) hm
  · have hexec := exec_mapUnread (f := f) (g := g) (hsound.imp_right fun hne x hi => hne x (hi ▸ hd))
      (hdraws.imp_right fun hne x nn hi => hne x nn (hi ▸ hd)) (hs.symm.trans h)
    exact (step_of_decode_ok (s := s.mapUnread f g) hm hd).trans hexec
  · cases hs.symm.trans h
    exact (step_of_illegal (s := s.mapUnread f g) hm (.inl he)).trans
      (congrArg _ (State.raise_decodeError_mapUnread s.advancePc _))

end Unread

/-- Only Cxnn takes a draw (R133). -/
theorem step_draws {s t : State} (hrnd : ∀ x nn, decode s.fetchWord ≠ .ok (.rnd x nn)) (h : step s = .next t) :
    t.draws = s.draws := by
  rcases step_cases s with ⟨-, hs⟩ | ⟨-, i, hd, -⟩ | ⟨-, -, hs⟩
  · cases hs.symm.trans h
    rfl
  · refine step_same_of_decode_ok hd h .draws fun hmem => ?_
    obtain ⟨x, nn, rfl⟩ := eq_rnd_of_draws_mem_mayWrite (by simpa using hmem)
    exact hrnd x nn hd
  · cases hs.symm.trans h
    exact SameExcept.raise_decodeError (L := [.pc, .mode, .halt, .diag]) s.advancePc _ (by simp) (by simp) (by simp)
      (by simp) .draws (by simp)

end Sys2Proof.Machine

/-! ### What an instruction cannot see: O53, O54 -/

/-- Settles O53: a step commutes with setting `sound` unless it is Fx18, which overwrites it. -/
theorem soundIsNeverRead : Obligations.SoundIsNeverRead := by
  unfold Obligations.SoundIsNeverRead
  intro s t b h
  by_cases hst : ∃ x, decode s.fetchWord = .ok (.ldStVx x)
  case neg => exact .inl (step_mapUnread (f := fun _ => b) (g := id) (.inr (not_exists.mp hst)) (.inl rfl) h)
  obtain ⟨x, hd⟩ := hst
  by_cases hm : s.mode = .running
  · cases ((step_of_decode_ok hm hd).trans (exec_ldStVx x _)).symm.trans h
    exact .inr ⟨⟨x, hd⟩, step_of_decode_ok (s := s.setSound b) hm hd⟩
  · cases (step_of_not_running hm).symm.trans h
    exact .inl (step_of_not_running (s := s.setSound b) hm)

/-- Settles O54: a step that is not Cxnn takes no draw and commutes with setting their count. -/
theorem drawsMatterOnlyToRandom : Obligations.DrawsMatterOnlyToRandom := by
  unfold Obligations.DrawsMatterOnlyToRandom
  exact fun s t n hrnd h =>
    ⟨step_draws hrnd h, step_mapUnread (f := id) (g := fun _ => n) (.inl rfl) (.inr hrnd) h⟩
end
